-- ==== Sys2Proof/Word.lean ====
section
/-! DEFINITION. The words of the hardware: bytes, the 16-bit address operand, the 15 address lines, and the
two kinds of bus event the block and the device share (20_memory.md R64). -/

namespace Sys2Proof

/-- Every datum is one byte (00_scope.md R5 `DATA_W`, 20_memory.md R53). -/
abbrev Byte := BitVec 8

/-- An address operand of a command or an operation, 16 bits (00_scope.md R5 `CMD_ADDR_W`). -/
abbrev Addr := BitVec 16

/-- The address that reaches the device, 15 bits (00_scope.md R5 `ADDR_W`, 20_memory.md R51). -/
abbrev DevAddr := BitVec 15

/-- A cycle-level bus event (20_memory.md R64, 10_state.md R39). -/
inductive BusEvent where
  /-- `WR(a, v)`: a write cycle that presents `a` and `v`. -/
  | wr (a : DevAddr) (v : Byte)
  /-- `RD(a) = b`: a read cycle at `a` that the device answers with `b`. -/
  | rd (a : DevAddr) (b : Byte)
deriving DecidableEq, Repr

end Sys2Proof
end

