-- ==== Sys2Proof/Config.lean ====
section
/-! DEFINITION. What an implementation fixes (00_scope.md R5) and the one free value of the model: the byte
the device answers a read cycle with (20_memory.md R65). -/

namespace Sys2Proof

/-- The open parameters of 00_scope.md R5, constant for the life of a run (10_state.md R34). -/
structure Config where
  /-- `QCAP`: the capacity of each byte queue. -/
  qcap : Nat
  /-- `POLL_BOUND`: how many reads POLL makes at most. -/
  pollBound : Nat
  /-- `T_ACC` in nanoseconds, a lower bound on the access delay (R219). -/
  tAcc : Nat
  /-- `T_WP` in nanoseconds, a lower bound on the write pulse (R219). -/
  tWp : Nat
deriving DecidableEq, Repr

/-- The reference values of 00_scope.md R5: 10 bytes, 2500 reads, 1 µs and 1 µs. -/
def Config.reference : Config := { qcap := 10, pollBound := 2500, tAcc := 1000, tWp := 1000 }

/-- The constraints `QCAP >= 1` and `POLL_BOUND >= 1` (00_scope.md R5, 41_poller.md R125, U9). -/
def Config.wf (c : Config) : Bool := decide (1 ≤ c.qcap) && decide (1 ≤ c.pollBound)

/-- FREE VALUE (20_memory.md R65, U3; notes/assumptions/1.md): the byte an unmodelled device puts on the data
lines at a sample.  The arguments are the number of the draw, `TRACE` so far and the address on the pins, so
the device may answer with knowledge of all of them and under no law. -/
opaque Config.deviceAnswer : Nat → List BusEvent → DevAddr → Byte

end Sys2Proof
end

