-- ==== Sys2Proof/Syntax.lean ====
section
/-! DEFINITION. The instructions: the five command forms of the command stream and the five operations of the
operation port (30_encoding.md R81, R87, R89), one constructor per row of spec/opcode_table.json. -/

namespace Sys2Proof

/-- One constructor per row of the opcode table. -/
inductive Instr where
  /-- `r`: read a byte (43_commands.md R150). -/
  | r (address : Addr)
  /-- `w`: write a byte, poll, re-read (43_commands.md R151). -/
  | w (address : Addr) (data : Byte)
  /-- `e`: protect on (43_commands.md R143). -/
  | e
  /-- `d`: protect off (43_commands.md R144). -/
  | d
  /-- `unk`: an unrecognised opcode byte and the two bytes taken as its address (43_commands.md R152). -/
  | unk (opcode : Byte) (address : Addr)
  /-- READ_BYTE on the operation port (40_bus_cycles.md R101). -/
  | readByte (address : Addr)
  /-- WRITE_BYTE on the operation port (40_bus_cycles.md R102). -/
  | writeByte (address : Addr) (value : Byte)
  /-- POLL on the operation port (41_poller.md R120). -/
  | poll (address : Addr) (expected : Byte)
  /-- PROT_ENABLE on the operation port (42_protection.md R130). -/
  | protEnable
  /-- PROT_DISABLE on the operation port (42_protection.md R131). -/
  | protDisable
deriving DecidableEq, Repr

/-- A request on the operation port (30_encoding.md R89): `OP_SEL`, `OP_ADDR`, `OP_DATA`. -/
structure OpRequest where
  sel : BitVec 3
  addr : Addr
  data : Byte
deriving DecidableEq, Repr

/-- The two code spaces of the opcode table: bytes of the command stream, first byte first, or one request
on the operation port. -/
inductive Code where
  | stream (bytes : List Byte)
  | port (q : OpRequest)
deriving DecidableEq, Repr

end Sys2Proof
end

