-- ==== Sys2Proof/Machine/State.lean ====
section
/-! DEFINITION. The state of the machine (10_state.md R20 to R40), the environments that act on it
(00_scope.md R10), why a step can stop, and the state after reset (10_state.md R38, 70_reset_and_hazards.md
R201). -/

namespace Sys2Proof.Machine

/-- `PSTATE`, the program counter of this hardware (10_state.md R21). -/
inductive PState where
  | awaitOpcode
  | awaitAddressHigh
  | awaitAddressLow
  | execute
deriving DecidableEq, Repr

/-- `BUS`, the levels of the lines (10_state.md R28).  A one-bit field is a Bool, `true` for level 1: so
`ceN = false` is chip-enable asserted (00_scope.md R9). -/
structure Bus where
  /-- `A_OUT` -/
  aOut : DevAddr
  /-- `A_EN` -/
  aEn : Bool
  /-- `D_OUT` -/
  dOut : Byte
  /-- `D_DIR` -/
  dDir : Bool
  /-- `D_PU` -/
  dPu : Bool
  /-- `CE_n` -/
  ceN : Bool
  /-- `OE_n` -/
  oeN : Bool
  /-- `WE_n` -/
  weN : Bool
deriving DecidableEq, Repr

/-- The poller's control states (41_poller.md R128). -/
inductive PollCtl where
  | pIdle
  | pRead
  | pCheck
deriving DecidableEq, Repr

/-- The runner's control states (42_protection.md R137). -/
inductive RunCtl where
  | sIdle
  | sWrite
deriving DecidableEq, Repr

/-- The contents of the reference device `SimDev`: address and byte, addresses strictly rising, no cell that
holds what an unlisted address reads as (Machine/Memory.lean). -/
abbrev Memory := List Host.Cell

/-- The device environment (20_memory.md R64 to R66). -/
inductive Device where
  /-- The general environment: every answer is a free value (R65). -/
  | oracle
  /-- The reference environment `SimDev` (R66). -/
  | simDev (mem : Memory)
  /-- The reference environment `Script(bs)`, with the answers still to come (R66). -/
  | script (answers : List Byte)
deriving DecidableEq, Repr

/-- What happens next outside the sequencer's endless invocation: one item is one step
(00_scope.md R10, 60_exceptions.md R186, 70_reset_and_hazards.md R200, R203). -/
inductive Event where
  /-- The run loop invokes the sequencer once (43_commands.md R140). -/
  | invoke
  /-- The transport appends the host's next byte to `INQ`, if `INQ` is not full (R186). -/
  | append
  /-- The transport delivers the front byte of `OUTQ` to the host, if there is one (R186). -/
  | remove
  /-- A request on the operation port (30_encoding.md R89). -/
  | request (q : OpRequest)
  /-- Power-on reset between two invocations (R200). -/
  | powerCycle
  /-- Power-on reset in the middle of an invocation, after `k + 1` primitives of it (R203). -/
  | cutInvocation (k : Nat)
  /-- Power-on reset in the middle of a requested operation, after `k + 1` primitives of it (R203). -/
  | cutRequest (k : Nat) (q : OpRequest)
deriving DecidableEq, Repr

/-- Everything the spec gives the machine, and the environments as plain data. -/
structure State where
  /-- The parameters of 00_scope.md R5; no step changes them. -/
  cfg : Config
  /-- `PSTATE` (R21) -/
  pstate : PState
  /-- `CMD_OP` (R22) -/
  cmdOp : Byte
  /-- `CMD_ADDR` (R23) -/
  cmdAddr : Addr
  /-- `INQ`, oldest byte first (R25) -/
  inq : List Byte
  /-- `OUTQ`, oldest byte first (R25) -/
  outq : List Byte
  /-- `BUS` (R28) -/
  bus : Bus
  /-- `POLL_ITER` (R31) -/
  pollIter : Nat
  /-- `POLL_OBS` (R31) -/
  pollObs : Byte
  /-- `SEQ_IDX` (R32) -/
  seqIdx : BitVec 3
  /-- The poller's control state (R128) -/
  poller : PollCtl
  /-- The runner's control state (R137) -/
  runner : RunCtl
  /-- `OP_RESULT` of the operation port (R89) -/
  opResult : Byte
  /-- `TRACE`, ghost: the bus events since reset, oldest first (R39) -/
  trace : List BusEvent
  /-- The MODEL'S ghost of the pin level: `BUS` after each primitive since reset, oldest first (R8, R100) -/
  pinTrace : List Bus
  /-- The device environment (R64 to R66) -/
  device : Device
  /-- The MODEL'S counter of free values: the number of the next read answer (notes/assumptions/1.md) -/
  draw : Nat
  /-- Bytes of the host's stream that the transport has not yet put into `INQ` (R36 d, R186) -/
  hostStream : List Byte
  /-- Reply bytes delivered to the host, oldest first (R186) -/
  hostReceived : List Byte
  /-- What happens next; when empty, the sequencer is invoked (R184; notes/assumptions/3.md) -/
  agenda : List Event
deriving DecidableEq, Repr

/-- Why a step stops with a fault.  The block raises no exception, trap or fault of any kind
(60_exceptions.md R170), so there is no reason: the type has no constructor. -/
inductive Fault : Type
deriving DecidableEq, Repr

/-- Why a step is refused. -/
inductive Refusal where
  /-- Raised by an arm of `exec` that has no meaning yet; safe.  No arm is one. -/
  | notModelled (mnemonic : String)
  /-- Raised by `step` in a configuration with `QCAP = 0` or `POLL_BOUND = 0`, and by `w` and POLL with
  `POLL_BOUND = 0` (U9, R125); safe. -/
  | badConfiguration
  /-- Raised by a port request with `OP_SEL` 0b101, 0b110 or 0b111 (R89, U7); safe. -/
  | reservedOpSel (sel : BitVec 3)
  /-- Raised by an operation asked for while `BUS` is not idle or another operation runs (R105, U6); safe. -/
  | operationInProgress
  /-- Raised by `e` or `d` run outside an invocation with `OUTQ` full, an illegal enqueue (R26, U5); safe. -/
  | enqueueOnFull
deriving DecidableEq, Repr

/-- The idle bus with the latches zero (10_state.md R29; the latch values are notes/assumptions/4.md). -/
def Bus.resetValue : Bus :=
  { aOut := 0, aEn := false, dOut := 0, dDir := false, dPu := true, ceN := true, oeN := true, weN := true }

/-- The machine right after reset (10_state.md R38, 70_reset_and_hazards.md R201): `PSTATE = AwaitOpcode`,
queues empty, bus idle, no operation in progress, `TRACE` empty.  The registers the spec leaves unspecified
are zero (notes/assumptions/4.md); the device is the general environment and the host has sent nothing. -/
def State.reset : State :=
  { cfg := Config.reference
    pstate := .awaitOpcode
    cmdOp := 0
    cmdAddr := 0
    inq := []
    outq := []
    bus := Bus.resetValue
    pollIter := 0
    pollObs := 0
    seqIdx := 0
    poller := .pIdle
    runner := .sIdle
    opResult := 0
    trace := []
    pinTrace := []
    device := .oracle
    draw := 0
    hostStream := []
    hostReceived := []
    agenda := [] }

end Sys2Proof.Machine
end

