-- ==== Sys2Proof/Machine/Flags.lean ====
section
/-! DEFINITION. The conditions the machine tests.  There are no flags and no condition codes (10_state.md
R33): each condition is computed where it is used and stored nowhere. -/

namespace Sys2Proof.Machine

/-- `full(OUTQ)` (10_state.md R27).  The spec writes `len(q) == QCAP`; a queue never holds more than `QCAP`
bytes (R26), so `QCAP ≤ len` is the same test (notes/assumptions/6.md). -/
def State.outqFull (s : State) : Bool := decide (s.cfg.qcap ≤ s.outq.length)

/-- `full(INQ)`, which only the transport tests (60_exceptions.md R186). -/
def State.inqFull (s : State) : Bool := decide (s.cfg.qcap ≤ s.inq.length)

/-- The idle bus (10_state.md R29): what `A_OUT` and `D_OUT` hold does not count. -/
def Bus.idle (b : Bus) : Bool := b.ceN && b.oeN && b.weN && !b.aEn && !b.dDir && b.dPu

/-- The precondition of every operation: `BUS` idle and no other operation running (40_bus_cycles.md R101,
R105, 41_poller.md R120, 42_protection.md R132). -/
def State.quiet (s : State) : Bool :=
  s.bus.idle && decide (s.poller = .pIdle) && decide (s.runner = .sIdle)

end Sys2Proof.Machine
end

