-- ==== Sys2Proof/Machine/Memory.lean ====
section
/-! DEFINITION. The contents of the reference device `SimDev` (20_memory.md R66) as a list of cells in one
canonical form, and the device environment at the cycle level (20_memory.md R64, R65). -/

namespace Sys2Proof.Machine

/-- What an address that no cell lists reads as: the `mem[a] = FF` of the test vectors
(95_test_vectors.md 2.6; notes/assumptions/5.md). -/
def Memory.background : Byte := 0xFF

/-- `mem[a]`. -/
def Memory.read : Memory → DevAddr → Byte
  | [], _ => Memory.background
  | (k, v) :: rest, a => if k = a.toNat then v else Memory.read rest a

/-- `mem[a] <- v`, in canonical form: writing the background byte removes the cell. -/
def Memory.write : Memory → DevAddr → Byte → Memory
  | [], a, v => if v = Memory.background then [] else [(a.toNat, v)]
  | (k, x) :: rest, a, v =>
    if a.toNat < k then
      if v = Memory.background then (k, x) :: rest else (a.toNat, v) :: (k, x) :: rest
    else if a.toNat = k then
      if v = Memory.background then rest else (k, v) :: rest
    else (k, x) :: Memory.write rest a v

/-- The canonical form from address `lo` on: rising, inside the device space, nothing listed that equals the
background byte. -/
def Memory.wfFrom : Nat → Memory → Bool
  | _, [] => true
  | lo, (k, v) :: rest =>
    decide (lo ≤ k) && decide (k < 2 ^ 15) && decide (v ≠ Memory.background) && Memory.wfFrom (k + 1) rest

/-- The canonical form. -/
def Memory.wf (m : Memory) : Bool := Memory.wfFrom 0 m

/-- The answer to a read cycle: `SimDev` gives `mem[a]`, `Script` its next byte, and the general environment,
or a script that has run out, a free value (20_memory.md R65, R66). -/
def Device.answer (dev : Device) (draw : Nat) (trace : List BusEvent) (a : DevAddr) : Byte :=
  match dev with
  | .oracle => Config.deviceAnswer draw trace a
  | .simDev mem => Memory.read mem a
  | .script (b :: _) => b
  | .script [] => Config.deviceAnswer draw trace a

/-- The device after it has answered a read cycle: only a script moves on (20_memory.md R66). -/
def Device.afterRead (dev : Device) : Device :=
  match dev with
  | .oracle => .oracle
  | .simDev mem => .simDev mem
  | .script bs => .script bs.tail

/-- The device after a write cycle: only `SimDev` stores (20_memory.md R64, R66). -/
def Device.afterWrite (dev : Device) (a : DevAddr) (v : Byte) : Device :=
  match dev with
  | .oracle => .oracle
  | .simDev mem => .simDev (Memory.write mem a v)
  | .script bs => .script bs

/-- The byte the device is known to hold at an address, where it is known to hold any: the model's read of
one byte of memory. -/
def Device.peek (dev : Device) (a : DevAddr) : Option Byte :=
  match dev with
  | .oracle => none
  | .simDev mem => some (Memory.read mem a)
  | .script _ => none

/-- A `SimDev`'s contents are in canonical form. -/
def Device.wf (dev : Device) : Bool :=
  match dev with
  | .oracle => true
  | .simDev mem => Memory.wf mem
  | .script _ => true

end Sys2Proof.Machine
end

