-- ==== Sys2Proof/Machine/Operands.lean ====
section
/-! DEFINITION. Operand forms: the address mask of the Bus Driver (20_memory.md R51), the address register
(43_commands.md R146, R147), the acknowledgment bytes (30_encoding.md R82) and the protection sequences as
data (30_encoding.md R93). -/

namespace Sys2Proof.Machine

/-- `a15 = address & 0x7FFF`: the 15 bits that reach the pins (20_memory.md R51, 40_bus_cycles.md R103). -/
def maskAddr (address : Addr) : DevAddr := address.setWidth 15

/-- `zext_16(b) << 8`: `CMD_ADDR` after the high byte (43_commands.md R146). -/
def storeHigh (b : Byte) : Addr := b.setWidth 16 <<< 8

/-- `CMD_ADDR | zext_16(b)`: `CMD_ADDR` after the low byte (43_commands.md R147). -/
def orLow (address : Addr) (b : Byte) : Addr := address ||| b.setWidth 16

/-- `ACK_PROT_ON` = `'E'` (30_encoding.md R82). -/
def ackProtOn : Byte := 0x45

/-- `ACK_PROT_OFF` = `'D'` (30_encoding.md R82). -/
def ackProtOff : Byte := 0x44

/-- The three writes of PROT_ENABLE (30_encoding.md R93, 42_protection.md R130). -/
def enableSequence : List (Addr × Byte) := [(0x5555, 0xAA), (0x2AAA, 0x55), (0x5555, 0xA0)]

/-- The six writes of PROT_DISABLE (30_encoding.md R93, 42_protection.md R131). -/
def disableSequence : List (Addr × Byte) :=
  [(0x5555, 0xAA), (0x2AAA, 0x55), (0x5555, 0x80), (0x5555, 0xAA), (0x2AAA, 0x55), (0x5555, 0x20)]

/-- The numbering of the protocol states (10_state.md R21, D22); nothing observes it. -/
def PState.code : PState → BitVec 2
  | .awaitOpcode => 0
  | .awaitAddressHigh => 1
  | .awaitAddressLow => 2
  | .execute => 3

end Sys2Proof.Machine
end

