-- ==== Sys2Proof/Machine/Pins.lean ====
section
/-! DEFINITION. The backend primitives of the Bus Driver and their effect on `BUS` (40_bus_cycles.md R100),
and the primitives of a read cycle, a write cycle and a reset, in order (R101, R102,
70_reset_and_hazards.md R203). -/

namespace Sys2Proof.Machine

/-- The three control lines. -/
inductive Line where
  | ce
  | oe
  | we
deriving DecidableEq, Repr

/-- The two data directions the source names. -/
inductive Direction where
  | inPullup
  | out
deriving DecidableEq, Repr

/-- The backend primitives (40_bus_cycles.md R100). -/
inductive Prim where
  | setAddress (a : DevAddr)
  | releaseAddress
  | setDataDirection (dir : Direction)
  | setDataOut (v : Byte)
  | readDataIn
  | setControl (line : Line) (level : Bool)
  | delay (t : Nat)
deriving DecidableEq, Repr

/-- The effect of a primitive on the lines (the table of 40_bus_cycles.md R100). -/
def Prim.apply (p : Prim) (b : Bus) : Bus :=
  match p with
  | .setAddress a => { b with aOut := a, aEn := true }
  | .releaseAddress => { b with aEn := false }
  | .setDataDirection .inPullup => { b with dDir := false, dPu := true }
  | .setDataDirection .out => { b with dDir := true, dPu := false }
  | .setDataOut v => { b with dOut := v }
  | .readDataIn => b
  | .setControl .ce level => { b with ceN := level }
  | .setControl .oe level => { b with oeN := level }
  | .setControl .we level => { b with weN := level }
  | .delay _ => b

/-- RB1 to RB6 (40_bus_cycles.md R101): up to and with the sample. -/
def readToSample (a : DevAddr) (tAcc : Nat) : List Prim :=
  [.setAddress a, .setDataDirection .inPullup, .setControl .ce false, .setControl .oe false,
    .delay tAcc, .readDataIn]

/-- RB7 to RB9 (40_bus_cycles.md R101). -/
def readRelease : List Prim := [.setControl .oe true, .setControl .ce true, .releaseAddress]

/-- WB1 to WB7 (40_bus_cycles.md R102): up to and with the rising edge of write-enable. -/
def writeToEdge (a : DevAddr) (v : Byte) (tWp : Nat) : List Prim :=
  [.setAddress a, .setControl .ce false, .setDataOut v, .setDataDirection .out, .setControl .we false,
    .delay tWp, .setControl .we true]

/-- WB8 to WB11 (40_bus_cycles.md R102). -/
def writeRelease : List Prim :=
  [.setControl .oe true, .setControl .ce true, .releaseAddress, .setDataDirection .inPullup]

/-- What reset does to the lines, in this order (70_reset_and_hazards.md R203). -/
def resetRelease : List Prim :=
  [.setControl .we true, .setControl .oe true, .setControl .ce true, .releaseAddress,
    .setDataDirection .inPullup]

/-- `BUS` after each primitive of a list, in order. -/
def busAfterEach : List Prim → Bus → List Bus
  | [], _ => []
  | p :: ps, b => p.apply b :: busAfterEach ps (p.apply b)

/-- `BUS` after all the primitives of a list. -/
def busAfterAll : List Prim → Bus → Bus
  | [], b => b
  | p :: ps, b => busAfterAll ps (p.apply b)

end Sys2Proof.Machine
end

