-- ==== Sys2Proof/Machine/Ops.lean ====
section
/-! DEFINITION. The named operations: updates of State, the two bus cycles, the poller, the runner, replies
and stalls.  There is no exception to take and none to return from (60_exceptions.md R170, R178, R179): the
nearest thing to either is `stall`. -/

namespace Sys2Proof.Machine

/-! ### Updates of State -/

def State.setPstate (s : State) (p : PState) : State := { s with pstate := p }

def State.setCmdOp (s : State) (b : Byte) : State := { s with cmdOp := b }

def State.setCmdAddr (s : State) (a : Addr) : State := { s with cmdAddr := a }

def State.setInq (s : State) (q : List Byte) : State := { s with inq := q }

/-- `enq(OUTQ, b)` (10_state.md R26); legal only when `OUTQ` is not full, and every caller tests that first. -/
def State.enqOut (s : State) (b : Byte) : State := { s with outq := s.outq ++ [b] }

def State.setOpResult (s : State) (b : Byte) : State := { s with opResult := b }

def State.setPollIter (s : State) (n : Nat) : State := { s with pollIter := n }

def State.setPollObs (s : State) (b : Byte) : State := { s with pollObs := b }

def State.setPoller (s : State) (c : PollCtl) : State := { s with poller := c }

def State.setSeqIdx (s : State) (i : BitVec 3) : State := { s with seqIdx := i }

def State.setRunner (s : State) (c : RunCtl) : State := { s with runner := c }

def State.setAgenda (s : State) (es : List Event) : State := { s with agenda := es }

/-! ### The Bus Driver -/

/-- Drive the lines through a list of primitives; the pin-level ghost records `BUS` after each
(40_bus_cycles.md R100). -/
def State.drive (s : State) (ps : List Prim) : State :=
  { s with bus := busAfterAll ps s.bus, pinTrace := s.pinTrace ++ busAfterEach ps s.bus }

/-- The byte the device answers now to a read cycle at `a` (20_memory.md R64, R65). -/
def State.answer (s : State) (a : DevAddr) : Byte := s.device.answer s.draw s.trace a

/-- `emit RD(a) = b` (40_bus_cycles.md R101 RB6): the event, and the device's move past it. -/
def State.emitRead (s : State) (a : DevAddr) (b : Byte) : State :=
  { s with trace := s.trace ++ [.rd a b], device := s.device.afterRead, draw := s.draw + 1 }

/-- `emit WR(a, v)` (40_bus_cycles.md R102 WB7): the event, and the device's move past it. -/
def State.emitWrite (s : State) (a : DevAddr) (v : Byte) : State :=
  { s with trace := s.trace ++ [.wr a v], device := s.device.afterWrite a v }

/-- READ_BYTE (40_bus_cycles.md R101): the byte sampled, and the state after the cycle. -/
def readByte (address : Addr) (s : State) : Byte × State :=
  let a := maskAddr address
  let sampling := s.drive (readToSample a s.cfg.tAcc)
  let b := sampling.answer a
  (b, (sampling.emitRead a b).drive readRelease)

/-- WRITE_BYTE (40_bus_cycles.md R102): the state after the cycle. -/
def writeByte (address : Addr) (value : Byte) (s : State) : State :=
  let a := maskAddr address
  ((s.drive (writeToEdge a value s.cfg.tWp)).emitWrite a value).drive writeRelease

/-! ### The Write-Completion Poller -/

/-- One round of POLL's loop (41_poller.md R120): `POLL_OBS <- READ_BYTE(address)`,
`POLL_ITER <- POLL_ITER + 1`. -/
def pollRead (address : Addr) (s : State) : State :=
  let r := readByte address (s.setPoller .pRead)
  ((r.2.setPollObs r.1).setPollIter (r.2.pollIter + 1)).setPoller .pCheck

/-- POLL's loop with `left` reads left before the bound (41_poller.md R120): having none left after a read is
the exit `POLL_ITER == POLL_BOUND`. -/
def pollLoop (address : Addr) (expected : Byte) : Nat → State → State
  | 0, s => s
  | left + 1, s =>
    let t := pollRead address s
    if t.pollObs = expected then t else pollLoop address expected left t

/-- POLL (41_poller.md R120): the observed value, and the state after it. -/
def poll (address : Addr) (expected : Byte) (s : State) : Byte × State :=
  let t := pollLoop address expected s.cfg.pollBound (s.setPollIter 0)
  (t.pollObs, t.setPoller .pIdle)

/-- One transition of the poller as a state machine (41_poller.md R128), with its operands latched. -/
def pollTick (address : Addr) (expected : Byte) (s : State) : State :=
  match s.poller with
  | .pIdle => (s.setPollIter 0).setPoller .pRead
  | .pRead => pollRead address s
  | .pCheck =>
    if s.pollObs = expected ∨ s.pollIter = s.cfg.pollBound then s.setPoller .pIdle else s.setPoller .pRead

/-! ### The Protection-Sequence Runner -/

/-- The writes of a sequence from index `i` on (42_protection.md R130, R131). -/
def runSequence : BitVec 3 → List (Addr × Byte) → State → State
  | _, [], s => s
  | i, (a, v) :: rest, s => runSequence (i + 1) rest (writeByte a v (s.setSeqIdx i))

/-- PROT_ENABLE (42_protection.md R130). -/
def protEnable (s : State) : State :=
  (runSequence 0 enableSequence (s.setRunner .sWrite)).setRunner .sIdle

/-- PROT_DISABLE (42_protection.md R131). -/
def protDisable (s : State) : State :=
  (runSequence 0 disableSequence (s.setRunner .sWrite)).setRunner .sIdle

/-- One transition of the runner as a state machine (42_protection.md R137): the column of 30_encoding.md R93
it was started with, and `SEQ_LAST`. -/
def runnerTick (column : List (Addr × Byte)) (last : BitVec 3) (s : State) : State :=
  match s.runner with
  | .sIdle => (s.setSeqIdx 0).setRunner .sWrite
  | .sWrite =>
    match column[s.seqIdx.toNat]? with
    | some (a, v) =>
      let t := writeByte a v s
      if s.seqIdx = last then t.setRunner .sIdle else t.setSeqIdx (s.seqIdx + 1)
    | none => s

/-! ### The sequencer -/

/-- A stall: nothing changes (43_commands.md R153, 60_exceptions.md R178). -/
def stall (s : State) : Host.Outcome State Fault Refusal := .next s

/-- The end of a command: its one reply byte, and back to `AwaitOpcode` (30_encoding.md R85). -/
def State.reply (s : State) (b : Byte) : State := (s.enqOut b).setPstate .awaitOpcode

/-- The guard of every operation: an operation starts only on an idle bus with no other running
(40_bus_cycles.md R105, U6). -/
def whenQuiet (s : State) (t : Host.Outcome State Fault Refusal) : Host.Outcome State Fault Refusal :=
  if s.quiet then t else .refused .operationInProgress

/-- The guard of POLL: a bound of zero is no configuration (41_poller.md R125, U9). -/
def whenBound (s : State) (t : Host.Outcome State Fault Refusal) : Host.Outcome State Fault Refusal :=
  if s.cfg.pollBound = 0 then .refused .badConfiguration else t

end Sys2Proof.Machine
end

