-- ==== Sys2Proof/Machine/Commands.lean ====
section
/-! DEFINITION. The meanings of the command forms `r`, `w`, `e`, `d` and `unk` (43_commands.md), run from the
state in which the sequencer has taken the command's bytes up to the point where the rule acts. -/

namespace Sys2Proof.Machine

/-- Command `r`, the Execute action of 43_commands.md R150. -/
def execR (address : Addr) (s : State) : Host.Outcome State Fault Refusal :=
  if s.outqFull then stall s
  else whenQuiet s (.next ((readByte address s).2.reply (readByte address s).1))

/-- The bus cycles of `w` with its data byte dequeued: the write, the poll with its result discarded, and the
read whose byte is the reply (43_commands.md R151). -/
def writePollRead (address : Addr) (data : Byte) (s : State) : State :=
  let polled := (poll address data (writeByte address data s)).2
  (readByte address polled).2.reply (readByte address polled).1

/-- Command `w`, the Execute action of 43_commands.md R151.  `data` is the byte at the front of `INQ`, which
the action dequeues. -/
def execW (address : Addr) (data : Byte) (s : State) : Host.Outcome State Fault Refusal :=
  match s.inq with
  | [] => stall s
  | _ :: rest =>
    if s.outqFull then stall s
    else whenQuiet s (whenBound s (.next (writePollRead address data (s.setInq rest))))

/-- Command `e` (43_commands.md R143), its opcode byte taken. -/
def execE (s : State) : Host.Outcome State Fault Refusal :=
  if s.outqFull then .refused .enqueueOnFull
  else whenQuiet s (.next ((protEnable s).reply ackProtOn))

/-- Command `d` (43_commands.md R144), its opcode byte taken. -/
def execD (s : State) : Host.Outcome State Fault Refusal :=
  if s.outqFull then .refused .enqueueOnFull
  else whenQuiet s (.next ((protDisable s).reply ackProtOff))

/-- An unrecognised opcode in Execute: nothing happens, in this invocation and every later one
(43_commands.md R152). -/
def execUnk (_opcode : Byte) (_address : Addr) (s : State) : Host.Outcome State Fault Refusal := stall s

end Sys2Proof.Machine
end

