-- ==== Sys2Proof/Machine/Operations.lean ====
section
/-! DEFINITION. The meanings of the operation port's rows READ_BYTE, WRITE_BYTE, POLL, PROT_ENABLE and
PROT_DISABLE (30_encoding.md R89).  An operation with a result writes `OP_RESULT`; one without leaves it
(notes/assumptions/7.md). -/

namespace Sys2Proof.Machine

/-- READ_BYTE (40_bus_cycles.md R101). -/
def execReadByte (address : Addr) (s : State) : Host.Outcome State Fault Refusal :=
  whenQuiet s (.next ((readByte address s).2.setOpResult (readByte address s).1))

/-- WRITE_BYTE (40_bus_cycles.md R102). -/
def execWriteByte (address : Addr) (value : Byte) (s : State) : Host.Outcome State Fault Refusal :=
  whenQuiet s (.next (writeByte address value s))

/-- POLL (41_poller.md R120). -/
def execPoll (address : Addr) (expected : Byte) (s : State) : Host.Outcome State Fault Refusal :=
  whenQuiet s (whenBound s (.next ((poll address expected s).2.setOpResult (poll address expected s).1)))

/-- PROT_ENABLE (42_protection.md R130). -/
def execProtEnable (s : State) : Host.Outcome State Fault Refusal := whenQuiet s (.next (protEnable s))

/-- PROT_DISABLE (42_protection.md R131). -/
def execProtDisable (s : State) : Host.Outcome State Fault Refusal := whenQuiet s (.next (protDisable s))

end Sys2Proof.Machine
end

