-- ==== Sys2Proof/Machine/Dispatch.lean ====
section
/-! DEFINITION. One arm per instruction. -/

namespace Sys2Proof.Machine

def exec (i : Instr) (s : State) : Host.Outcome State Fault Refusal :=
  match i with
  | .r address => Sys2Proof.Machine.execR address s
  | .w address data => Sys2Proof.Machine.execW address data s
  | .e => Sys2Proof.Machine.execE s
  | .d => Sys2Proof.Machine.execD s
  | .unk opcode address => Sys2Proof.Machine.execUnk opcode address s
  | .readByte address => Sys2Proof.Machine.execReadByte address s
  | .writeByte address value => Sys2Proof.Machine.execWriteByte address value s
  | .poll address expected => Sys2Proof.Machine.execPoll address expected s
  | .protEnable => Sys2Proof.Machine.execProtEnable s
  | .protDisable => Sys2Proof.Machine.execProtDisable s

end Sys2Proof.Machine
end

