-- ==== Sys2Proof/WellFormed.lean ====
section
/-! DEFINITION. Which terms of `Instr` are instructions of the hardware.  The field types carry every width;
the one check left is that `unk` does not hold one of the four recognised opcodes (30_encoding.md R87). -/

namespace Sys2Proof

/-- The four recognised opcode bytes (30_encoding.md R82). -/
def recognisedOpcodes : List Byte := [0x72, 0x77, 0x65, 0x64]

/-- Well-formed: `unk` stands only for the 252 other byte values (30_encoding.md R87). -/
def Instr.wf : Instr → Bool
  | .r _ => true
  | .w _ _ => true
  | .e => true
  | .d => true
  | .unk opcode _ => !recognisedOpcodes.contains opcode
  | .readByte _ => true
  | .writeByte _ _ => true
  | .poll _ _ => true
  | .protEnable => true
  | .protDisable => true

end Sys2Proof
end

