-- ==== Sys2Proof/Decode.lean ====
section
/-! DEFINITION. Decoding of the command stream and of the operation port, total on any bytes and rejecting by
name, and the encoder (30_encoding.md R81 to R94). -/

namespace Sys2Proof

/-- `OPC_READ` = `'r'` (30_encoding.md R82). -/
def opcRead : Byte := 0x72

/-- `OPC_WRITE` = `'w'` (30_encoding.md R82). -/
def opcWrite : Byte := 0x77

/-- `OPC_PROT_ON` = `'e'` (30_encoding.md R82). -/
def opcProtOn : Byte := 0x65

/-- `OPC_PROT_OFF` = `'d'` (30_encoding.md R82). -/
def opcProtOff : Byte := 0x64

/-- What byte 0 of a command selects (30_encoding.md R92). -/
inductive OpClass where
  | read
  | write
  | protOn
  | protOff
  | unrecognised
deriving DecidableEq, Repr

/-- Decoding byte 0; all eight bits count and every byte decodes (30_encoding.md R92, R94). -/
def opcodeClass (b : Byte) : OpClass :=
  if b = opcProtOn then .protOn
  else if b = opcProtOff then .protOff
  else if b = opcRead then .read
  else if b = opcWrite then .write
  else .unrecognised

/-- The address operand: first byte high, second byte low (30_encoding.md R83). -/
def assembleAddr (hi lo : Byte) : Addr := (hi.setWidth 16 <<< 8) ||| lo.setWidth 16

/-- Why bytes or a request are no instruction. -/
inductive DecodeError where
  /-- The stream ends inside a command; `missing` more bytes are needed at least (U15). -/
  | truncated (missing : Nat)
  /-- `OP_SEL` is one of the reserved codes 0b101 to 0b111 (30_encoding.md R89, U7). -/
  | reservedOpSel (sel : BitVec 3)
deriving DecidableEq, Repr

/-- How many bytes follow byte 0; the opcode byte alone fixes it (30_encoding.md R86). -/
def operandBytes (b : Byte) : Nat :=
  match opcodeClass b with
  | .protOn => 0
  | .protOff => 0
  | .write => 3
  | .read => 2
  | .unrecognised => 2

/-- The command at the front of a byte stream, and the bytes after it (30_encoding.md R81, R86, R87). -/
def decodeStream : List Byte → Except DecodeError (Instr × List Byte)
  | [] => .error (.truncated 1)
  | b :: rest =>
    match opcodeClass b, rest with
    | .protOn, rest => .ok (.e, rest)
    | .protOff, rest => .ok (.d, rest)
    | .read, hi :: lo :: rest => .ok (.r (assembleAddr hi lo), rest)
    | .write, hi :: lo :: v :: rest => .ok (.w (assembleAddr hi lo) v, rest)
    | .unrecognised, hi :: lo :: rest => .ok (.unk b (assembleAddr hi lo), rest)
    | .read, rest => .error (.truncated (2 - rest.length))
    | .write, rest => .error (.truncated (3 - rest.length))
    | .unrecognised, rest => .error (.truncated (2 - rest.length))

/-- The operation a request selects (30_encoding.md R89). -/
def decodeRequest (q : OpRequest) : Except DecodeError Instr :=
  if q.sel = 0b000 then .ok (.readByte q.addr)
  else if q.sel = 0b001 then .ok (.writeByte q.addr q.data)
  else if q.sel = 0b010 then .ok (.poll q.addr q.data)
  else if q.sel = 0b011 then .ok .protEnable
  else if q.sel = 0b100 then .ok .protDisable
  else .error (.reservedOpSel q.sel)

/-- Decoding in either code space; a stream is decoded for the command at its front. -/
def decode : Code → Except DecodeError Instr
  | .stream bytes => (decodeStream bytes).map (·.1)
  | .port q => decodeRequest q

/-- The command whose opcode and address the sequencer holds in Execute, given the byte that waits at the
front of `INQ`, if any (43_commands.md R149).  `w` is complete only with its data byte (R151).  A pending
`'e'` or `'d'` matches neither branch of Execute, so it is no command (R152; test vector 2.6 number 20). -/
def decodePending (op : Byte) (addr : Addr) (front : Option Byte) : Option Instr :=
  match opcodeClass op with
  | .read => some (.r addr)
  | .write => front.map (.w addr)
  | .unrecognised => some (.unk op addr)
  | .protOn => none
  | .protOff => none

/-- `addr16[15:8]`, the byte sent first (30_encoding.md R90). -/
def highByte (a : Addr) : Byte := a.extractLsb' 8 8

/-- `addr16[7:0]`, the byte sent second (30_encoding.md R90). -/
def lowByte (a : Addr) : Byte := a.extractLsb' 0 8

/-- The encoding of an instruction (30_encoding.md R81, R87, R89, R90).  A port field that the operation does
not use is sent as zero. -/
def encode : Instr → Code
  | .r a => .stream [opcRead, highByte a, lowByte a]
  | .w a v => .stream [opcWrite, highByte a, lowByte a, v]
  | .e => .stream [opcProtOn]
  | .d => .stream [opcProtOff]
  | .unk b a => .stream [b, highByte a, lowByte a]
  | .readByte a => .port { sel := 0b000, addr := a, data := 0 }
  | .writeByte a v => .port { sel := 0b001, addr := a, data := v }
  | .poll a x => .port { sel := 0b010, addr := a, data := x }
  | .protEnable => .port { sel := 0b011, addr := 0, data := 0 }
  | .protDisable => .port { sel := 0b100, addr := 0, data := 0 }

/-- The first `n` bytes of a number, byte 0 its least significant byte (the opcode table's numbering). -/
def bytesOfNat : Nat → Nat → List Byte
  | 0, _ => []
  | n + 1, w => BitVec.ofNat 8 w :: bytesOfNat n (w / 256)

/-- Whether a table word stands for a request on the operation port: the port's rows have the three bits of
`OP_SEL` and nothing else, so they are one byte below 8; every other word is a command's bytes
(notes/assumptions/2.md). -/
def isPortWord (nbits w : Nat) : Bool := decide (nbits ≤ 8) && decide (w % 2 ^ nbits < 8)

/-- The request of a table word of the operation port: `OP_SEL` from its three bits, operands zero. -/
def requestOfTableWord (w : Nat) : OpRequest := { sel := BitVec.ofNat 3 w, addr := 0, data := 0 }

/-- The four bytes of a table word of the command stream, zero above `nbits`. -/
def streamOfTableWord (nbits w : Nat) : List Byte := bytesOfNat 4 (w % 2 ^ nbits)

/-- The instruction the decoder reads from a word numbered as spec/opcode_table.json numbers it. -/
def decodeTableWord (nbits w : Nat) : Option Instr :=
  if isPortWord nbits w then (decode (.port (requestOfTableWord w))).toOption
  else (decode (.stream (streamOfTableWord nbits w))).toOption

end Sys2Proof
end

