-- ==== Sys2Proof/Machine/Fetch.lean ====
section
/-! DEFINITION. How the sequencer takes a command's bytes: phase A of an invocation and the gate of phase B
(43_commands.md R140 to R149). -/

namespace Sys2Proof.Machine

/-- Phase A acts only in the three Await states, with `INQ` not empty and `OUTQ` not full
(43_commands.md R141, R148). -/
def State.gateA (s : State) : Bool := decide (s.pstate ≠ .execute) && !s.inq.isEmpty && !s.outqFull

/-- Phase A with its gate passed and the byte `b` dequeued (43_commands.md R142 to R147): the state, and the
command `e` or `d` where the byte is one whole. -/
def takeByte (b : Byte) (s : State) : State × Option Instr :=
  match s.pstate with
  | .awaitOpcode =>
    match opcodeClass b with
    | .protOn => (s.setCmdOp b, some .e)
    | .protOff => (s.setCmdOp b, some .d)
    | .read => ((s.setCmdOp b).setPstate .awaitAddressHigh, none)
    | .write => ((s.setCmdOp b).setPstate .awaitAddressHigh, none)
    | .unrecognised => ((s.setCmdOp b).setPstate .awaitAddressHigh, none)
  | .awaitAddressHigh => ((s.setCmdAddr (storeHigh b)).setPstate .awaitAddressLow, none)
  | .awaitAddressLow => ((s.setCmdAddr (orLow s.cmdAddr b)).setPstate .execute, none)
  | .execute => (s, none)

/-- Phase A (43_commands.md R141). -/
def phaseA (s : State) : State × Option Instr :=
  match s.inq with
  | [] => (s, none)
  | b :: rest => if s.gateA then takeByte b (s.setInq rest) else (s, none)

/-- The command phase B runs, if `PSTATE` is Execute and one is complete (43_commands.md R149). -/
def State.pending (s : State) : Option Instr :=
  if s.pstate = .execute then decodePending s.cmdOp s.cmdAddr s.inq.head? else none

/-- What an invocation takes from `INQ` before it runs a command, and the command it then runs, if any.  A
command that phase A completed leaves `PSTATE` in AwaitOpcode, so phase B finds nothing to do (R156). -/
def fetch (s : State) : State × Option Instr :=
  match phaseA s with
  | (t, some i) => (t, some i)
  | (t, none) => (t, t.pending)

end Sys2Proof.Machine
end

