-- ==== Sys2Proof/Machine/Sequencer.lean ====
section
/-! DEFINITION. One invocation of the sequencer (43_commands.md R155), the transport's acts between two
invocations (60_exceptions.md R186), the operation port (30_encoding.md R89) and reset
(70_reset_and_hazards.md R200 to R203). -/

namespace Sys2Proof.Machine

/-- `Advance()` (43_commands.md R155). -/
def advance (s : State) : Host.Outcome State Fault Refusal :=
  match fetch s with
  | (t, some i) => exec i t
  | (t, none) => stall t

/-- A request on the operation port is run to completion; a reserved `OP_SEL` starts nothing
(30_encoding.md R89, U7). -/
def serveRequest (q : OpRequest) (s : State) : Host.Outcome State Fault Refusal :=
  match decodeRequest q with
  | .ok i => exec i s
  | .error _ => .refused (.reservedOpSel q.sel)

/-- The transport appends the host's next byte to `INQ` if `INQ` is not full; a byte that does not fit stays
in the transport (60_exceptions.md R185, R186). -/
def transportAppend (s : State) : State :=
  match s.hostStream with
  | [] => s
  | b :: rest => if s.inqFull then s else { s with inq := s.inq ++ [b], hostStream := rest }

/-- The transport delivers the front byte of `OUTQ` to the host, if there is one (60_exceptions.md R186). -/
def transportRemove (s : State) : State :=
  match s.outq with
  | [] => s
  | b :: rest => { s with outq := rest, hostReceived := s.hostReceived ++ [b] }

/-- Power-on reset (70_reset_and_hazards.md R200 to R203): the lines are released in the order of R203, the
block's state is the reset state, and only the environments and the parameters go on. -/
def powerOn (s : State) : State :=
  { State.reset with
    cfg := s.cfg
    pinTrace := busAfterEach resetRelease s.bus
    device := s.device
    draw := s.draw
    hostStream := s.hostStream
    hostReceived := s.hostReceived
    agenda := s.agenda }

/-- Power-on reset that cuts short the work `done` begun in `s`, after `k + 1` of its primitives: the block
is reset from the bus of that moment, and the device may have done anything with the cut cycle
(70_reset_and_hazards.md R203, U11).  Work with no more primitives than that is finished first. -/
def cutShort (k : Nat) (s : State) (done : Host.Outcome State Fault Refusal) :
    Host.Outcome State Fault Refusal :=
  match done with
  | .next t =>
    match (t.pinTrace.drop s.pinTrace.length)[k]? with
    | some b => .next (powerOn { s with bus := b, device := .oracle, draw := t.draw })
    | none => .next (powerOn t)
  | .fault f => .fault f
  | .refused r => .refused r

/-- One item of the agenda. -/
def runEvent (ev : Event) (s : State) : Host.Outcome State Fault Refusal :=
  match ev with
  | .invoke => advance s
  | .append => .next (transportAppend s)
  | .remove => .next (transportRemove s)
  | .request q => serveRequest q s
  | .powerCycle => .next (powerOn s)
  | .cutInvocation k => cutShort k s (advance s)
  | .cutRequest k q => cutShort k s (serveRequest q s)

/-- The reference run loop's one iteration as agenda items (60_exceptions.md R185): `received` bytes that
`receiveByte` yields, `sent` sends that succeed, then one invocation.  An append to a full `INQ` and a remove
from an empty `OUTQ` do nothing, as the loop's own tests have it. -/
def runLoopIteration (received sent : Nat) : List Event :=
  List.replicate received .append ++ List.replicate sent .remove ++ [.invoke]

end Sys2Proof.Machine
end

