-- ==== Sys2Proof/Machine/Step.lean ====
section
/-! DEFINITION. One step of the machine: the next item of the agenda or, where none waits, one invocation of
the sequencer (00_scope.md R10, 60_exceptions.md R184). -/

namespace Sys2Proof.Machine

/-- One step.  A configuration outside 00_scope.md R5 is refused (U9). -/
def step (s : State) : Host.Outcome State Fault Refusal :=
  if s.cfg.wf then
    match s.agenda with
    | [] => advance s
    | ev :: rest => runEvent ev (s.setAgenda rest)
  else .refused .badConfiguration

/-- The place of `OUTQ` that a command's reply needs. -/
def State.withReplyPlace (s : State) : State := { s with outq := s.outq.take (s.cfg.qcap - 1) }

/-- `s` with a command's bytes where the very next step fetches them: the opcode of `e` or `d` at the front of
`INQ`, any other command with its opcode and high address byte taken and the rest at the front of `INQ`. -/
def State.withCommand (s : State) (bytes : List Byte) : State :=
  match bytes with
  | op :: hi :: lo :: data :: _ =>
    match opcodeClass op with
    | .protOn => { s with pstate := .awaitOpcode, inq := op :: s.inq.tail }
    | .protOff => { s with pstate := .awaitOpcode, inq := op :: s.inq.tail }
    | .write =>
      { s with pstate := .awaitAddressLow, cmdOp := op, cmdAddr := storeHigh hi, inq := lo :: data :: s.inq.drop 2 }
    | .read =>
      { s with pstate := .awaitAddressLow, cmdOp := op, cmdAddr := storeHigh hi, inq := lo :: s.inq.tail }
    | .unrecognised =>
      { s with pstate := .awaitAddressLow, cmdOp := op, cmdAddr := storeHigh hi, inq := lo :: s.inq.tail }
  | _ => s

/-- `s` with a word of the opcode table stored where the next step fetches its instruction
(notes/assumptions/2.md): a port row as a request at the head of the agenda, a command row as its bytes with
an invocation at the head of the agenda. -/
def State.withFetchWord (s : State) (nbits w : Nat) : State :=
  if isPortWord nbits w then { s with agenda := .request (requestOfTableWord w) :: s.agenda }
  else
    let t := s.withReplyPlace.withCommand (streamOfTableWord nbits w)
    { t with agenda := .invoke :: s.agenda }

end Sys2Proof.Machine
end

