-- ==== Sys2Proof/Safety.lean ====
section
/-! DEFINITION. What counts as a safe run, in the terms the claims use: legal bus levels and legal changes of
them (40_bus_cycles.md R109), the invariant of the machine, and the end of a run (70_reset_and_hazards.md
R221). -/

namespace Sys2Proof.Machine

/-- Levels the block may present (40_bus_cycles.md R109 a to e): write-enable or output-enable is low only with
chip-enable low and the address driven, never both are, and the data lines are driven while write-enable is
low and not while output-enable is. -/
def Bus.safe (b : Bus) : Bool :=
  (b.weN || (!b.ceN && b.oeN && b.aEn && b.dDir)) &&
  (b.oeN || (!b.ceN && b.weN && b.aEn && !b.dDir)) &&
  (b.ceN || b.aEn)

/-- Changes of level the block may make from one primitive to the next (40_bus_cycles.md R109): while
write-enable is low, and over its rising edge, address and data stand still and the data stay driven; while
output-enable is low the address stands still; chip-enable moves only with the address driven; driven data do
not change, and are released only with chip-enable high. -/
def Bus.steady (b c : Bus) : Bool :=
  (b.weN || (decide (c.aOut = b.aOut) && decide (c.dOut = b.dOut) && c.dDir)) &&
  (b.oeN || decide (c.aOut = b.aOut)) &&
  (!b.ceN || c.ceN || b.aEn) &&
  (b.ceN || !c.ceN || c.aEn) &&
  (!b.dDir || !c.dDir || decide (c.dOut = b.dOut)) &&
  (!b.dDir || c.dDir || b.ceN)

/-- What every state of a run has, and every step keeps. -/
structure State.Inv (s : State) : Prop where
  /-- The parameters are in range (00_scope.md R5). -/
  config : s.cfg.wf = true
  /-- "capacity never exceeded" (10_state.md R26). -/
  inqBounded : s.inq.length ≤ s.cfg.qcap
  outqBounded : s.outq.length ≤ s.cfg.qcap
  /-- Between steps `BUS` is idle and no operation runs (10_state.md R30). -/
  quiet : s.quiet = true
  /-- Every level ever presented is legal (40_bus_cycles.md R109). -/
  pinsSafe : ∀ b ∈ s.pinTrace, b.safe = true
  /-- Every change of level is legal (40_bus_cycles.md R109). -/
  pinsSteady : s.pinTrace.IsChain (fun b c => b.steady c = true)
  pinsEndIdle : ∀ b ∈ s.pinTrace.getLast?, b.idle = true
  /-- The device's contents are in canonical form. -/
  device : s.device.wf = true
  /-- `POLL_ITER` ranges over `0 .. POLL_BOUND` (10_state.md R31). -/
  pollBounded : s.pollIter ≤ s.cfg.pollBound
  /-- `SEQ_IDX` ranges over `0 .. 5` (10_state.md R32). -/
  seqBounded : s.seqIdx.toNat ≤ 5
  /-- `'e'` and `'d'` never leave AwaitOpcode (43_commands.md R152). -/
  pendingOpcode : s.pstate ≠ .awaitOpcode → s.cmdOp ≠ opcProtOn ∧ s.cmdOp ≠ opcProtOff
  /-- Execute with `'r'` is left in the invocation that entered it (43_commands.md R150). -/
  noPendingRead : ¬ (s.pstate = .execute ∧ s.cmdOp = opcRead)
  /-- The high byte leaves bits 7:0 zero (43_commands.md R146, R147). -/
  halfAddress : s.pstate = .awaitAddressLow → lowByte s.cmdAddr = 0

/-- The run is complete (70_reset_and_hazards.md R221). -/
def State.complete (s : State) : Prop :=
  s.hostStream = [] ∧ s.inq = [] ∧ s.pstate = .awaitOpcode ∧ s.outq = []

/-- The block is permanently stalled (43_commands.md R152). -/
def State.wedged (s : State) : Prop :=
  s.pstate = .execute ∧ s.cmdOp ≠ opcRead ∧ s.cmdOp ≠ opcWrite

/-- The run is stuck (70_reset_and_hazards.md R221): the permanent stall, or a stream that ended inside a
command. -/
def State.stuck (s : State) : Prop :=
  s.wedged ∨
    (s.hostStream = [] ∧ s.inq = [] ∧
      (s.pstate = .awaitAddressHigh ∨ s.pstate = .awaitAddressLow ∨
        (s.pstate = .execute ∧ s.cmdOp = opcWrite)))

/-- Items of the agenda that are an ordinary run: the transport's two acts and invocations. -/
def Event.ordinary : Event → Bool
  | .invoke => true
  | .append => true
  | .remove => true
  | .request _ => false
  | .powerCycle => false
  | .cutInvocation _ => false
  | .cutRequest _ _ => false

/-- Items of the agenda that reset the block. -/
def Event.resets : Event → Bool
  | .invoke => false
  | .append => false
  | .remove => false
  | .request _ => false
  | .powerCycle => true
  | .cutInvocation _ => true
  | .cutRequest _ _ => true

/-- The device's answers to `n` successive read cycles at `a`, the first one made now (41_poller.md R121's
`b1, b2, ...`). -/
def State.answers (a : DevAddr) : Nat → State → List Byte
  | 0, _ => []
  | n + 1, s => s.answer a :: State.answers a n (s.emitRead a (s.answer a))

end Sys2Proof.Machine
end

