-- ==== Sys2Proof/Certificates/Slice0/Obligations.lean ====
section
/-! DEFINITION. The statements for the provers.  In each, "every field not named in the braces is unchanged" is
written `{ t with <changed fields> := s.<changed fields> } = s`; the device's contents, a field that a cycle
may move, are compared address by address through `Device.peek`.  The agenda is the model's own way of saying
what the environments do (notes/assumptions/3.md), and `pinTrace` its own record of the pin level
(notes/assumptions/10.md). -/

open Sys2Proof Sys2Proof.Machine

/-! ### Encoding -/

/-- Decoding the encoding of a well-formed instruction gives it back, with every operand at every value, and
a command's encoding is decoded the same whatever bytes follow it (30_encoding.md sections 1 and 3). -/
def Obligations.DecodeEncodeAgree : Prop :=
  ∀ (i : Instr) (rest : List Byte), i.wf = true →
    decode (encode i) = .ok i ∧
      ∀ bytes, encode i = .stream bytes → decodeStream (bytes ++ rest) = .ok (i, rest)

/-- The other direction: what the stream decoder accepts is well-formed, and the bytes it took are exactly
that instruction's encoding (30_encoding.md sections 1 and 2). -/
def Obligations.DecodedBytesAreTheEncoding : Prop :=
  ∀ (bytes rest : List Byte) (i : Instr), decodeStream bytes = .ok (i, rest) →
    i.wf = true ∧ ∃ own, encode i = .stream own ∧ bytes = own ++ rest

/-- R86: the opcode byte alone fixes how many bytes follow it: none after 0x65 and 0x64, three after 0x77, two
after every other value; with fewer the command is incomplete, with enough exactly those are consumed. -/
def Obligations.OpcodeAloneFixesLength : Prop :=
  ∀ (b : Byte) (rest : List Byte),
    let n := if b = 0x65 ∨ b = 0x64 then 0 else if b = 0x77 then 3 else 2
    (rest.length < n → decodeStream (b :: rest) = .error (.truncated (n - rest.length))) ∧
      (n ≤ rest.length → ∃ i, decodeStream (b :: rest) = .ok (i, rest.drop n))

/-- Words of the opcode table, written out from 30_encoding.md sections 1 and 3, and what they decode to. -/
def Obligations.TableWordsDecode : Prop :=
  decodeStream [0x72, 0x12, 0x34] = .ok (.r 0x1234, []) ∧
  decodeStream [0x77, 0x00, 0x10, 0xAB] = .ok (.w 0x0010 0xAB, []) ∧
  decodeStream [0x65, 0x72] = .ok (.e, [0x72]) ∧
  decodeStream [0x64] = .ok (.d, []) ∧
  decodeStream [0x78, 0x01, 0x02, 0x72] = .ok (.unk 0x78 0x0102, [0x72]) ∧
  decodeRequest ⟨0b000, 0x9234, 0x00⟩ = .ok (.readByte 0x9234) ∧
  decodeRequest ⟨0b001, 0xD555, 0xAA⟩ = .ok (.writeByte 0xD555 0xAA) ∧
  decodeRequest ⟨0b010, 0x0010, 0xAB⟩ = .ok (.poll 0x0010 0xAB) ∧
  decodeRequest ⟨0b011, 0x0000, 0x00⟩ = .ok .protEnable ∧
  decodeRequest ⟨0b100, 0x0000, 0x00⟩ = .ok .protDisable ∧
  decodeRequest ⟨0b101, 0x0000, 0x00⟩ = .error (.reservedOpSel 0b101)

/-- R83: the address operand is the first byte after the opcode above the second, for all values; the register
keeps all 16 bits and the location accessed is `address & 0x7FFF`.  The last two clauses run the two
invocations that take the two address bytes of an `r` and of a `w`. -/
def Obligations.AddressOperandIsBigEndian : Prop :=
  ∀ (hi lo data : Byte),
    let address : Addr := (hi ++ lo : BitVec (8 + 8))
    address = (hi.setWidth 16 <<< 8) ||| lo.setWidth 16 ∧
    decodeStream [0x72, hi, lo] = .ok (.r address, []) ∧
    decodeStream [0x77, hi, lo, data] = .ok (.w address data, []) ∧
    ∀ (s : State) (rest : List Byte), s.cfg.wf = true → s.agenda = [] → s.quiet = true →
      s.outqFull = false → s.pstate = .awaitAddressHigh →
      (s.cmdOp = 0x72 → s.inq = hi :: lo :: rest →
        ∃ t b, Host.Core.run Sys2Proof.core 2 s = .next t ∧ t.cmdAddr = address ∧ t.inq = rest ∧
          t.trace = s.trace ++ [.rd ((address &&& 0x7FFF).setWidth 15) b]) ∧
      (s.cmdOp = 0x77 → s.inq = hi :: lo :: data :: rest →
        ∃ t evs, Host.Core.run Sys2Proof.core 2 s = .next t ∧ t.cmdAddr = address ∧ t.inq = rest ∧
          t.trace = s.trace ++ .wr ((address &&& 0x7FFF).setWidth 15) data :: evs ∧
          ∀ ev ∈ evs, ∃ b, ev = .rd ((address &&& 0x7FFF).setWidth 15) b)

/-! ### Fetching and the step -/

/-- A step runs the decoded instruction (43_commands.md section 5, 30_encoding.md section 3).  With nothing on
the agenda, or an `invoke` at its head, the step is an invocation.  When the byte an invocation takes is a
whole command, or completes one whose opcode and high address byte were taken before, the step is `exec` of
the instruction the decoder reads from the command's bytes, at the state with the taken byte stored as R142
and R147 say; so too when `w`'s data byte is there in Execute.  A port request is `exec` of the operation it
selects.  The model's own conventions here are the agenda (notes/assumptions/3.md, the first two clauses), a
request as one step of its own (notes/assumptions/14.md, the last clause) and the split of an invocation into
the taking of bytes and `exec` (notes/assumptions/17.md, the command clauses). -/
def Obligations.StepRunsTheDecodedInstruction : Prop :=
  (∀ (s : State), s.cfg.wf = true → s.agenda = [] → step s = advance s) ∧
  (∀ (s : State) (es : List Event), s.cfg.wf = true → s.agenda = .invoke :: es →
    step s = advance { s with agenda := es }) ∧
  (∀ (s : State) (op : Byte) (rest after : List Byte) (i : Instr),
    s.outqFull = false → s.pstate = .awaitOpcode → s.inq = op :: rest → op = 0x65 ∨ op = 0x64 →
    decodeStream (op :: rest) = .ok (i, after) →
    advance s = exec i { s with inq := after, cmdOp := op }) ∧
  (∀ (s : State) (hi lo : Byte) (rest after : List Byte) (i : Instr),
    s.outqFull = false → s.pstate = .awaitAddressLow → s.cmdOp ≠ 0x65 → s.cmdOp ≠ 0x64 →
    s.cmdAddr = hi.setWidth 16 <<< 8 → s.inq = lo :: rest →
    decodeStream (s.cmdOp :: hi :: lo :: rest) = .ok (i, after) →
    advance s = exec i { s with inq := rest, cmdAddr := (hi ++ lo : BitVec (8 + 8)), pstate := .execute }) ∧
  (∀ (s : State) (hi lo data : Byte) (rest after : List Byte) (i : Instr),
    s.pstate = .execute → s.cmdOp = 0x77 → s.cmdAddr = (hi ++ lo : BitVec (8 + 8)) → s.inq = data :: rest →
    decodeStream (s.cmdOp :: hi :: lo :: data :: rest) = .ok (i, after) → advance s = exec i s) ∧
  (∀ (s : State) (q : OpRequest) (es : List Event) (i : Instr), s.cfg.wf = true →
    s.agenda = .request q :: es → decodeRequest q = .ok i → step s = exec i { s with agenda := es })

/-- R141: phase A acts only in the three Await states, with `INQ` not empty and `OUTQ` not full.  If the gate
fails it changes nothing, and in an Await state the whole invocation then changes nothing.  If it passes,
phase A dequeues exactly one byte and acts on it by `PSTATE`; the invocation dequeues one in all, but for the
`w` that finds its data byte behind its low address byte and dequeues that in phase B. -/
def Obligations.PhaseAGate : Prop :=
  ∀ (s : State),
    (s.pstate = .execute ∨ s.inq = [] ∨ s.outqFull = true → phaseA s = (s, none)) ∧
    (s.cfg.wf = true → s.agenda = [] → s.pstate ≠ .execute → s.inq = [] ∨ s.outqFull = true →
      step s = .next s) ∧
    (∀ b rest, s.pstate ≠ .execute → s.inq = b :: rest → s.outqFull = false →
      phaseA s = takeByte b { s with inq := rest } ∧ (phaseA s).1.inq = rest ∧
      ∀ t, s.agenda = [] → step s = .next t →
        t.inq = rest ∨ (s.pstate = .awaitAddressLow ∧ s.cmdOp = 0x77 ∧ ∃ data, rest = data :: t.inq))

/-- R145: any opcode byte but `'e'` and `'d'`, recognised or not, is stored and moves `PSTATE` to
AwaitAddressHigh; no bus cycle, nothing enqueued, nothing else changed. -/
def Obligations.OtherOpcodeIsStored : Prop :=
  ∀ (s : State) (b : Byte) (rest : List Byte), s.cfg.wf = true → s.agenda = [] →
    s.pstate = .awaitOpcode → s.inq = b :: rest → s.outqFull = false → b ≠ 0x65 → b ≠ 0x64 →
    step s = .next { s with inq := rest, cmdOp := b, pstate := .awaitAddressHigh }

/-- R146: the high address byte replaces all 16 bits of `CMD_ADDR`, bits 7:0 zero, and moves `PSTATE` to
AwaitAddressLow; no bus cycle, nothing enqueued, nothing else changed. -/
def Obligations.HighByteReplacesAddress : Prop :=
  ∀ (s : State) (b : Byte) (rest : List Byte), s.cfg.wf = true → s.agenda = [] →
    s.pstate = .awaitAddressHigh → s.inq = b :: rest → s.outqFull = false →
    step s = .next { s with inq := rest, cmdAddr := (b ++ (0 : Byte) : BitVec (8 + 8)), pstate := .awaitAddressLow }

/-- R147: the low address byte is ORed into `CMD_ADDR` and moves `PSTATE` to Execute, with nothing else done in
phase A; after a high byte the result is `addrHigh ++ addrLow`; and phase B of the same invocation then sees
Execute: it runs `r`, or `w` if its data byte is there, and otherwise does nothing. -/
def Obligations.LowByteCompletesAddress : Prop :=
  ∀ (s : State) (b : Byte) (rest : List Byte), s.cfg.wf = true → s.agenda = [] →
    s.pstate = .awaitAddressLow → s.inq = b :: rest → s.outqFull = false →
    let taken : State := { s with inq := rest, cmdAddr := s.cmdAddr ||| b.setWidth 16, pstate := .execute }
    (∀ hi : Byte, s.cmdAddr = hi.setWidth 16 <<< 8 → taken.cmdAddr = (hi ++ b : BitVec (8 + 8))) ∧
    (s.cmdOp = 0x72 → step s = exec (.r taken.cmdAddr) taken) ∧
    (s.cmdOp = 0x77 → ∀ data more, rest = data :: more → step s = exec (.w taken.cmdAddr data) taken) ∧
    (s.cmdOp = 0x77 → rest = [] → step s = .next taken) ∧
    (s.cmdOp ≠ 0x72 → s.cmdOp ≠ 0x77 → step s = .next taken)

/-- In Execute an invocation takes no byte in phase A (43_commands.md section 2, whose reading of the table is
decision D17); phase B runs `r`, or `w` if a byte waits in `INQ`, and otherwise nothing changes
(43_commands.md section 3). -/
def Obligations.ExecuteActsByStoredOpcode : Prop :=
  ∀ (s : State), s.cfg.wf = true → s.agenda = [] → s.pstate = .execute →
    (s.cmdOp = 0x72 → step s = exec (.r s.cmdAddr) s) ∧
    (s.cmdOp = 0x77 → ∀ data rest, s.inq = data :: rest → step s = exec (.w s.cmdAddr data) s) ∧
    (s.cmdOp = 0x77 → s.inq = [] → step s = .next s) ∧
    (s.cmdOp ≠ 0x72 → s.cmdOp ≠ 0x77 → step s = .next s)

/-- The edges of `PSTATE` and no other (the transition table of 43_commands.md section 5). -/
def Obligations.OnlyTheTableMovesProtocolState : Prop :=
  ∀ (s t : State), s.agenda = [] → step s = .next t →
    (s.pstate = .awaitOpcode → t.pstate = .awaitOpcode ∨ t.pstate = .awaitAddressHigh) ∧
    (s.pstate = .awaitAddressHigh → t.pstate = .awaitAddressHigh ∨ t.pstate = .awaitAddressLow) ∧
    (s.pstate = .awaitAddressLow →
      t.pstate = .awaitAddressLow ∨ t.pstate = .execute ∨
        (t.pstate = .awaitOpcode ∧ (s.cmdOp = 0x72 ∨ s.cmdOp = 0x77))) ∧
    (s.pstate = .execute →
      t.pstate = .execute ∨ (t.pstate = .awaitOpcode ∧ (s.cmdOp = 0x72 ∨ s.cmdOp = 0x77)))

/-- One invocation dequeues at most two bytes, from the front and in order, and enqueues at most one, at the
back (43_commands.md section 5, a consequence the spec draws from `Advance()`). -/
def Obligations.WorkPerInvocation : Prop :=
  ∀ (s t : State), s.agenda = [] → step s = .next t →
    (∃ n, n ≤ 2 ∧ t.inq = s.inq.drop n) ∧ (t.outq = s.outq ∨ ∃ b, t.outq = s.outq ++ [b])

/-- A stall changes nothing (43_commands.md section 4): an invocation leaves the state as it is when `OUTQ` is
full, when an Await state or a `w` in Execute finds `INQ` empty, and when the opcode in Execute is neither
`'r'` nor `'w'`.  There is no partial execution: an invocation issues bus cycles if and only if it enqueues a
reply, which the spec marks as its own inference (R153, derived) and not as the source's words.  The clause on
`pinTrace` is about the model's own record (notes/assumptions/10.md). -/
def Obligations.NoPartialExecution : Prop :=
  ∀ (s t : State), s.agenda = [] → step s = .next t →
    (s.outqFull = true → t = s) ∧
    (s.inq = [] → s.pstate ≠ .execute → t = s) ∧
    (s.inq = [] → s.pstate = .execute → s.cmdOp = 0x77 → t = s) ∧
    (s.pstate = .execute → s.cmdOp ≠ 0x72 → s.cmdOp ≠ 0x77 → t = s) ∧
    ((t.outq = s.outq ∧ t.trace = s.trace ∧ t.pinTrace = s.pinTrace ∧ t.bus = s.bus ∧ t.device = s.device) ∨
      ∃ b ev evs, t.outq = s.outq ++ [b] ∧ t.trace = s.trace ++ ev :: evs ∧ t.pstate = .awaitOpcode)

/-- A fully buffered command takes one invocation (`e`, `d`) or three (`r`, `w`, unrecognised), and its last
one is `exec` of the instruction the decoder reads from the whole command (43_commands.md section 5, a
consequence the spec draws from `Advance()`). -/
def Obligations.BufferedCommandRunsWhole : Prop :=
  ∀ (s : State) (op : Byte) (rest after : List Byte) (i : Instr), s.cfg.wf = true → s.agenda = [] →
    s.pstate = .awaitOpcode → s.outqFull = false → s.inq = op :: rest →
    decodeStream s.inq = .ok (i, after) →
    (op = 0x65 ∨ op = 0x64 →
      Host.Core.run Sys2Proof.core 1 s = exec i { s with cmdOp := op, inq := after }) ∧
    (op ≠ 0x65 → op ≠ 0x64 → ∃ hi lo tail, rest = hi :: lo :: tail ∧
      Host.Core.run Sys2Proof.core 3 s =
        exec i { s with cmdOp := op, cmdAddr := (hi ++ lo : BitVec (8 + 8)), inq := tail, pstate := .execute } ∧
      (op = 0x77 → ∃ data, tail = data :: after) ∧ (op ≠ 0x77 → tail = after))

/-! ### The commands -/

/-- Command `r` (43_commands.md section 3).  With `OUTQ` full it stalls and nothing changes.  Otherwise it
completes: one read cycle at `address & 0x7FFF`, the byte the device answered at the back of `OUTQ`, `PSTATE`
AwaitOpcode, `BUS` idle; every field not named in the braces is unchanged, and so is every byte the device is
known to hold. -/
def Obligations.ReadCommandRepliesWithTheByteRead : Prop :=
  ∀ (address : Addr) (s : State),
    (s.outqFull = true → exec (.r address) s = .next s) ∧
    (s.outqFull = false → s.quiet = true → ∃ t,
      let a : DevAddr := (address &&& 0x7FFF).setWidth 15
      exec (.r address) s = .next t ∧
      t.trace = s.trace ++ [.rd a (s.answer a)] ∧
      t.outq = s.outq ++ [s.answer a] ∧
      t.pstate = .awaitOpcode ∧
      t.bus.idle = true ∧
      t.device = s.device.afterRead ∧ (∀ x, t.device.peek x = s.device.peek x) ∧
      { t with
        outq := s.outq, pstate := s.pstate, trace := s.trace, bus := s.bus, pinTrace := s.pinTrace
        device := s.device, draw := s.draw } = s)

/-- R151, command `w`.  With `INQ` empty or `OUTQ` full it stalls: nothing dequeued, no bus cycle.  Otherwise
the data byte is dequeued and the command completes: one write cycle, then `k` read cycles of the poll
(`1 <= k <= POLL_BOUND`; the poll stops at the first answer equal to the data, or at the bound), then one more
read cycle whose byte, and not the poll's, is the reply; `PSTATE` AwaitOpcode, whether the write took or not.
Every field not named in the braces is unchanged, and so is every byte the device is known to hold but the
one written.  In an invocation: with low address byte and data byte both in `INQ` the whole write runs; with
no data byte phase B stalls, and the first later invocation that finds one runs it. -/
def Obligations.WriteCommandWritesPollsAndReplies : Prop :=
  (∀ (address : Addr) (data : Byte) (s : State),
    (s.inq = [] ∨ s.outqFull = true → exec (.w address data) s = .next s) ∧
    (∀ rest, s.inq = data :: rest → s.outqFull = false → s.quiet = true → 1 ≤ s.cfg.pollBound → ∃ t k,
      let a : DevAddr := (address &&& 0x7FFF).setWidth 15
      let bs := (s.emitWrite a data).answers a (k + 1)
      exec (.w address data) s = .next t ∧
      1 ≤ k ∧ k ≤ s.cfg.pollBound ∧
      t.trace = s.trace ++ .wr a data :: bs.map (.rd a) ∧
      (∀ j, j + 1 < k → bs[j]? ≠ some data) ∧ (bs[k - 1]? = some data ∨ k = s.cfg.pollBound) ∧
      (∃ v, bs[k]? = some v ∧ t.outq = s.outq ++ [v]) ∧
      t.inq = rest ∧ t.pstate = .awaitOpcode ∧ t.bus.idle = true ∧ t.pollIter = k ∧
      some t.pollObs = bs[k - 1]? ∧
      t.device = Device.afterRead^[k + 1] (s.device.afterWrite a data) ∧
      (∀ x, x ≠ a → t.device.peek x = s.device.peek x) ∧
      { t with
        inq := s.inq, outq := s.outq, pstate := s.pstate, trace := s.trace, bus := s.bus
        pinTrace := s.pinTrace, device := s.device, draw := s.draw, pollIter := s.pollIter
        pollObs := s.pollObs } = s)) ∧
  (∀ (s : State) (lo : Byte) (rest : List Byte), s.cfg.wf = true → s.agenda = [] →
    s.cmdOp = 0x77 →
    (s.pstate = .awaitAddressLow → s.outqFull = false → s.inq = lo :: rest →
      let taken : State := { s with inq := rest, cmdAddr := s.cmdAddr ||| lo.setWidth 16, pstate := .execute }
      (∀ data more, rest = data :: more → step s = exec (.w taken.cmdAddr data) taken) ∧
      (rest = [] → step s = .next taken)) ∧
    (s.pstate = .execute →
      (s.inq = [] → step s = .next s) ∧
      (∀ data more, s.inq = data :: more → step s = exec (.w s.cmdAddr data) s)))

/-- R143, command `e`, whole in the invocation that takes its opcode: the three writes of PROT_ENABLE, then
0x45 at the back of `OUTQ`, `PSTATE` unchanged; every field not named in the braces is unchanged, and so is
every byte the device is known to hold but those at the two magic addresses.  `OUTQ` full delays the command
whole.  The first clause says the same of `exec`, which runs it with the opcode taken. -/
def Obligations.ProtectOnIssuesThreeWritesAndAcknowledges : Prop :=
  let events : List BusEvent := [.wr 0x5555 0xAA, .wr 0x2AAA 0x55, .wr 0x5555 0xA0]
  (∀ (s : State), s.outqFull = false → s.quiet = true → ∃ t, exec .e s = .next t ∧
    t.trace = s.trace ++ events ∧ t.outq = s.outq ++ [0x45] ∧ t.pstate = .awaitOpcode ∧
    t.bus.idle = true ∧ t.seqIdx = 2 ∧
    t.device = ((s.device.afterWrite 0x5555 0xAA).afterWrite 0x2AAA 0x55).afterWrite 0x5555 0xA0 ∧
    (∀ x, x ≠ 0x5555 → x ≠ 0x2AAA → t.device.peek x = s.device.peek x) ∧
    { t with
      outq := s.outq, pstate := s.pstate, trace := s.trace, bus := s.bus, pinTrace := s.pinTrace
      device := s.device, seqIdx := s.seqIdx } = s) ∧
  (∀ (s : State) (rest : List Byte), s.cfg.wf = true → s.agenda = [] → s.pstate = .awaitOpcode →
    s.inq = 0x65 :: rest →
    (s.outqFull = true → step s = .next s) ∧
    (s.outqFull = false → step s = exec .e { s with inq := rest, cmdOp := 0x65 }) ∧
    (s.outqFull = false → s.quiet = true → ∃ t, step s = .next t ∧
      t.inq = rest ∧ t.cmdOp = 0x65 ∧ t.pstate = .awaitOpcode ∧
      t.outq = s.outq ++ [0x45] ∧ t.trace = s.trace ++ events))

/-- R144, command `d`, as R143 with the six writes of PROT_DISABLE and 0x44. -/
def Obligations.ProtectOffIssuesSixWritesAndAcknowledges : Prop :=
  let events : List BusEvent :=
    [.wr 0x5555 0xAA, .wr 0x2AAA 0x55, .wr 0x5555 0x80, .wr 0x5555 0xAA, .wr 0x2AAA 0x55, .wr 0x5555 0x20]
  (∀ (s : State), s.outqFull = false → s.quiet = true → ∃ t, exec .d s = .next t ∧
    t.trace = s.trace ++ events ∧ t.outq = s.outq ++ [0x44] ∧ t.pstate = .awaitOpcode ∧
    t.bus.idle = true ∧ t.seqIdx = 5 ∧
    t.device = (((((s.device.afterWrite 0x5555 0xAA).afterWrite 0x2AAA 0x55).afterWrite 0x5555 0x80).afterWrite
      0x5555 0xAA).afterWrite 0x2AAA 0x55).afterWrite 0x5555 0x20 ∧
    (∀ x, x ≠ 0x5555 → x ≠ 0x2AAA → t.device.peek x = s.device.peek x) ∧
    { t with
      outq := s.outq, pstate := s.pstate, trace := s.trace, bus := s.bus, pinTrace := s.pinTrace
      device := s.device, seqIdx := s.seqIdx } = s) ∧
  (∀ (s : State) (rest : List Byte), s.cfg.wf = true → s.agenda = [] → s.pstate = .awaitOpcode →
    s.inq = 0x64 :: rest →
    (s.outqFull = true → step s = .next s) ∧
    (s.outqFull = false → step s = exec .d { s with inq := rest, cmdOp := 0x64 }) ∧
    (s.outqFull = false → s.quiet = true → ∃ t, step s = .next t ∧
      t.inq = rest ∧ t.cmdOp = 0x64 ∧ t.pstate = .awaitOpcode ∧
      t.outq = s.outq ++ [0x44] ∧ t.trace = s.trace ++ events))

/-- An unrecognised opcode in Execute does nothing, in this invocation and every later one
(43_commands.md section 3; keeping this behaviour is the spec's decision D11). -/
def Obligations.UnrecognisedOpcodeStallsForEver : Prop :=
  (∀ (opcode : Byte) (address : Addr) (s : State), exec (.unk opcode address) s = .next s) ∧
  (∀ (s : State) (n : Nat), s.cfg.wf = true → s.agenda = [] → s.pstate = .execute →
    s.cmdOp ≠ 0x72 → s.cmdOp ≠ 0x77 → Host.Core.run Sys2Proof.core n s = .next s)

/-- Nothing the transport does ends the permanent stall: over any run of its acts and of invocations, `PSTATE`,
`CMD_OP` and `CMD_ADDR` stay, no bus cycle is issued, no reply is produced, and `INQ` only grows
(43_commands.md section 3; the spec's decision D11; `pinTrace` is notes/assumptions/10.md). -/
def Obligations.TransportCannotEndTheStall : Prop :=
  ∀ (s t : State) (n : Nat), s.wedged → (∀ ev ∈ s.agenda, ev.ordinary = true) →
    Host.Core.run Sys2Proof.core n s = .next t →
    t.pstate = .execute ∧ t.cmdOp = s.cmdOp ∧ t.cmdAddr = s.cmdAddr ∧ t.trace = s.trace ∧
      t.pinTrace = s.pinTrace ∧ s.inq <+: t.inq ∧ t.hostReceived ++ t.outq = s.hostReceived ++ s.outq

/-! ### The operation port and the operations -/

/-- READ_BYTE on the port completes (40_bus_cycles.md sections 2 and 5; the port and `OP_RESULT` are the spec's
decision D4): the nine values `BUS` takes, one event, the answer in `OP_RESULT`; nothing else changes.  The
model's own choices here: `A_OUT` and `D_OUT` stay latched on released lines, where R111 writes x
(notes/assumptions/4.md), and the values of `BUS` are recorded in `pinTrace` (notes/assumptions/10.md). -/
def Obligations.ReadByteRunsOneReadCycle : Prop :=
  ∀ (address : Addr) (s : State), s.quiet = true → ∃ t,
    let a : DevAddr := (address &&& 0x7FFF).setWidth 15
    let x := s.bus.dOut
    exec (.readByte address) s = .next t ∧
    t.pinTrace = s.pinTrace ++
      [⟨a, true, x, false, true, true, true, true⟩, ⟨a, true, x, false, true, true, true, true⟩,
        ⟨a, true, x, false, true, false, true, true⟩, ⟨a, true, x, false, true, false, false, true⟩,
        ⟨a, true, x, false, true, false, false, true⟩, ⟨a, true, x, false, true, false, false, true⟩,
        ⟨a, true, x, false, true, false, true, true⟩, ⟨a, true, x, false, true, true, true, true⟩,
        ⟨a, false, x, false, true, true, true, true⟩] ∧
    t.bus = ⟨a, false, x, false, true, true, true, true⟩ ∧
    t.trace = s.trace ++ [.rd a (s.answer a)] ∧ t.opResult = s.answer a ∧
    t.device = s.device.afterRead ∧ (∀ y, t.device.peek y = s.device.peek y) ∧
    { t with
      bus := s.bus, pinTrace := s.pinTrace, trace := s.trace, opResult := s.opResult
      device := s.device, draw := s.draw } = s

/-- WRITE_BYTE on the port completes (40_bus_cycles.md sections 3 and 5; the port is the spec's decision D4,
the order of data value, direction and release its decision D10): the eleven values `BUS` takes, one event;
nothing else changes, and no byte the device is known to hold but the one written.  The model's own choices
here: `A_OUT` and `D_OUT` stay latched on released lines, where R111 writes x (notes/assumptions/4.md),
`OP_RESULT` is kept by an operation without a result (notes/assumptions/7.md), and the values of `BUS` are
recorded in `pinTrace` (notes/assumptions/10.md). -/
def Obligations.WriteByteRunsOneWriteCycle : Prop :=
  ∀ (address : Addr) (v : Byte) (s : State), s.quiet = true → ∃ t,
    let a : DevAddr := (address &&& 0x7FFF).setWidth 15
    let x := s.bus.dOut
    exec (.writeByte address v) s = .next t ∧
    t.pinTrace = s.pinTrace ++
      [⟨a, true, x, false, true, true, true, true⟩, ⟨a, true, x, false, true, false, true, true⟩,
        ⟨a, true, v, false, true, false, true, true⟩, ⟨a, true, v, true, false, false, true, true⟩,
        ⟨a, true, v, true, false, false, true, false⟩, ⟨a, true, v, true, false, false, true, false⟩,
        ⟨a, true, v, true, false, false, true, true⟩, ⟨a, true, v, true, false, false, true, true⟩,
        ⟨a, true, v, true, false, true, true, true⟩, ⟨a, false, v, true, false, true, true, true⟩,
        ⟨a, false, v, false, true, true, true, true⟩] ∧
    t.bus = ⟨a, false, v, false, true, true, true, true⟩ ∧
    t.trace = s.trace ++ [.wr a v] ∧
    t.device = s.device.afterWrite a v ∧ (∀ y, y ≠ a → t.device.peek y = s.device.peek y) ∧
    { t with
      bus := s.bus, pinTrace := s.pinTrace, trace := s.trace, device := s.device } = s

/-- POLL on the port completes (41_poller.md sections 1 and 2; the port and `OP_RESULT` are the spec's decision
D4): it makes `k` reads, `1 <= k <= POLL_BOUND`, stops at the first answer equal to the expected byte or at
the bound, and its result is the last answer; nothing else changes. -/
def Obligations.PollStopsAtFirstMatchOrBound : Prop :=
  ∀ (address : Addr) (expected : Byte) (s : State), s.quiet = true → 1 ≤ s.cfg.pollBound → ∃ t k,
    let a : DevAddr := (address &&& 0x7FFF).setWidth 15
    let bs := s.answers a k
    exec (.poll address expected) s = .next t ∧
    1 ≤ k ∧ k ≤ s.cfg.pollBound ∧
    t.trace = s.trace ++ bs.map (.rd a) ∧
    (∀ j, j + 1 < k → bs[j]? ≠ some expected) ∧
    (t.opResult = expected ∨ k = s.cfg.pollBound) ∧
    bs[k - 1]? = some t.opResult ∧ t.pollObs = t.opResult ∧ t.pollIter = k ∧ t.bus.idle = true ∧
    (∀ y, t.device.peek y = s.device.peek y) ∧
    { t with
      bus := s.bus, pinTrace := s.pinTrace, trace := s.trace, opResult := s.opResult, device := s.device
      draw := s.draw, pollIter := s.pollIter, pollObs := s.pollObs } = s

/-- R124: if the bound is used up without a match, POLL's result is the answer to read number `POLL_BOUND`;
`w`, its only caller in the block, discards it, replies with the next read's answer and goes on to
AwaitOpcode. -/
def Obligations.ExhaustedPollGivesTheLastAnswer : Prop :=
  ∀ (address : Addr) (expected : Byte) (s : State), s.quiet = true → 1 ≤ s.cfg.pollBound →
    let a : DevAddr := (address &&& 0x7FFF).setWidth 15
    (expected ∉ s.answers a s.cfg.pollBound → ∃ t, exec (.poll address expected) s = .next t ∧
      t.pollIter = s.cfg.pollBound ∧ (s.answers a s.cfg.pollBound).getLast? = some t.opResult) ∧
    (∀ rest, s.inq = expected :: rest → s.outqFull = false →
      expected ∉ (s.emitWrite a expected).answers a s.cfg.pollBound →
      ∃ t v, exec (.w address expected) s = .next t ∧ t.pstate = .awaitOpcode ∧ t.outq = s.outq ++ [v] ∧
        ((s.emitWrite a expected).answers a (s.cfg.pollBound + 1)).getLast? = some v)

/-- PROT_ENABLE (42_protection.md sections 1 and 2, R130) issues exactly the three writes, in order, whatever
the device is, and never reads; `SEQ_IDX` ends at 2; nothing else changes, and no byte the device is known to
hold but those at the two magic addresses.  `BUS` is idle after each of the three cycles, each of them the
eleven primitives of WRITE_BYTE (40_bus_cycles.md section 3, R102).  The model's own choices here: `OP_RESULT`
is kept by an operation without a result (notes/assumptions/7.md), and the clause on the cycles counts them in
the record `pinTrace` (notes/assumptions/10.md). -/
def Obligations.ProtEnableIssuesThreeWrites : Prop :=
  ∀ (s : State), s.quiet = true → ∃ t, exec .protEnable s = .next t ∧
    t.trace = s.trace ++ [.wr 0x5555 0xAA, .wr 0x2AAA 0x55, .wr 0x5555 0xA0] ∧
    t.seqIdx = 2 ∧ t.bus.idle = true ∧
    (∃ l, t.pinTrace = s.pinTrace ++ l ∧ l.length = 33 ∧
      ∀ i, i < 3 → ∃ b, l[11 * i + 10]? = some b ∧ b.idle = true) ∧
    t.device = ((s.device.afterWrite 0x5555 0xAA).afterWrite 0x2AAA 0x55).afterWrite 0x5555 0xA0 ∧
    (∀ x, x ≠ 0x5555 → x ≠ 0x2AAA → t.device.peek x = s.device.peek x) ∧
    { t with
      bus := s.bus, pinTrace := s.pinTrace, trace := s.trace, device := s.device, seqIdx := s.seqIdx } = s

/-- PROT_DISABLE (42_protection.md sections 1 and 2, R131) issues exactly the six writes, in order; otherwise
as ProtEnableIssuesThreeWrites, with `SEQ_IDX` ending at 5 and six cycles of R102's eleven primitives.  The
model's own choices here: `OP_RESULT` kept (notes/assumptions/7.md), and the cycles counted in `pinTrace`
(notes/assumptions/10.md). -/
def Obligations.ProtDisableIssuesSixWrites : Prop :=
  ∀ (s : State), s.quiet = true → ∃ t, exec .protDisable s = .next t ∧
    t.trace = s.trace ++
      [.wr 0x5555 0xAA, .wr 0x2AAA 0x55, .wr 0x5555 0x80, .wr 0x5555 0xAA, .wr 0x2AAA 0x55, .wr 0x5555 0x20] ∧
    t.seqIdx = 5 ∧ t.bus.idle = true ∧
    (∃ l, t.pinTrace = s.pinTrace ++ l ∧ l.length = 66 ∧
      ∀ i, i < 6 → ∃ b, l[11 * i + 10]? = some b ∧ b.idle = true) ∧
    t.device = (((((s.device.afterWrite 0x5555 0xAA).afterWrite 0x2AAA 0x55).afterWrite 0x5555 0x80).afterWrite
      0x5555 0xAA).afterWrite 0x2AAA 0x55).afterWrite 0x5555 0x20 ∧
    (∀ x, x ≠ 0x5555 → x ≠ 0x2AAA → t.device.peek x = s.device.peek x) ∧
    { t with
      bus := s.bus, pinTrace := s.pinTrace, trace := s.trace, device := s.device, seqIdx := s.seqIdx } = s

/-- R103: both bus cycles use `address & 0x7FFF`, and bit 15 of the address affects nothing: not the pins, not
`TRACE`, not the result.  The magic addresses pass unchanged. -/
def Obligations.AddressBit15HasNoEffect : Prop :=
  (∀ (address : Addr), maskAddr address = (address &&& 0x7FFF).setWidth 15) ∧
  (∀ (address : Addr) (s : State),
    exec (.readByte address) s = exec (.readByte (address &&& 0x7FFF)) s ∧
    exec (.readByte address) s = exec (.readByte (address ||| 0x8000)) s) ∧
  (∀ (address : Addr) (v : Byte) (s : State),
    exec (.writeByte address v) s = exec (.writeByte (address &&& 0x7FFF) v) s ∧
    exec (.writeByte address v) s = exec (.writeByte (address ||| 0x8000) v) s) ∧
  (maskAddr 0x5555).toNat = 0x5555 ∧ (maskAddr 0x2AAA).toNat = 0x2AAA

/-- The poller's state machine of 41_poller.md section 3 (control states by the spec's decision D4) is POLL:
from P_IDLE, one transition and two more for each read bring it back to P_IDLE in POLL's end state, and it is
not in P_IDLE before. -/
def Obligations.PollerMachineIsPoll : Prop :=
  ∀ (address : Addr) (expected : Byte) (s : State), s.poller = .pIdle → 1 ≤ s.cfg.pollBound →
    let t := (poll address expected s).2
    (pollTick address expected)^[2 * t.pollIter + 1] s = t ∧ t.poller = .pIdle ∧
      ∀ n, 0 < n → n < 2 * t.pollIter + 1 → ((pollTick address expected)^[n] s).poller ≠ .pIdle

/-- The runner's state machine of 42_protection.md section 2 (control states by the spec's decision D4) is
PROT_ENABLE with `SEQ_LAST` 2 and PROT_DISABLE with `SEQ_LAST` 5. -/
def Obligations.RunnerMachineIsTheSequence : Prop :=
  ∀ (s : State), s.runner = .sIdle →
    (runnerTick enableSequence 2)^[4] s = protEnable s ∧
    (runnerTick disableSequence 5)^[7] s = protDisable s ∧
    (∀ n, 0 < n → n < 4 → ((runnerTick enableSequence 2)^[n] s).runner = .sWrite) ∧
    (∀ n, 0 < n → n < 7 → ((runnerTick disableSequence 5)^[n] s).runner = .sWrite)

/-! ### What is refused -/

/-- A reserved `OP_SEL` is refused: no operation starts (30_encoding.md section 3, decision D4; that a request
is one step is notes/assumptions/14.md). -/
def Obligations.ReservedOpSelIsRefused : Prop :=
  ∀ (s : State) (q : OpRequest) (es : List Event), s.cfg.wf = true → s.agenda = .request q :: es →
    (5 ≤ q.sel.toNat ↔ step s = .refused (.reservedOpSel q.sel))

/-- An operation asked for while `BUS` is not idle or another operation runs has no step (40_bus_cycles.md
section 4; that a model refuses it is 93_implementation_defined.md U6).  The five operations of the port are
refused whatever the queues hold; `r`, `e` and `d` where `OUTQ` has a place, and `w` where `INQ` has its data
byte as well, since they stall or are refused as an illegal enqueue before they ask for the bus. -/
def Obligations.SecondOperationIsRefused : Prop :=
  ∀ (s : State), s.quiet = false →
    (∀ a, exec (.readByte a) s = .refused .operationInProgress) ∧
    (∀ a v, exec (.writeByte a v) s = .refused .operationInProgress) ∧
    (∀ a x, exec (.poll a x) s = .refused .operationInProgress) ∧
    exec .protEnable s = .refused .operationInProgress ∧
    exec .protDisable s = .refused .operationInProgress ∧
    (s.outqFull = false →
      (∀ a, exec (.r a) s = .refused .operationInProgress) ∧
      exec .e s = .refused .operationInProgress ∧
      exec .d s = .refused .operationInProgress ∧
      (s.inq ≠ [] → ∀ a v, exec (.w a v) s = .refused .operationInProgress))

/-- `e` and `d` run with `OUTQ` full would enqueue to a full queue, which has no meaning (10_state.md section
4; that a model refuses it is 93_implementation_defined.md U5). -/
def Obligations.IllegalEnqueueIsRefused : Prop :=
  ∀ (s : State), s.outqFull = true →
    exec .e s = .refused .enqueueOnFull ∧ exec .d s = .refused .enqueueOnFull

/-- A configuration with `QCAP = 0` or `POLL_BOUND = 0` is refused (00_scope.md section 4; the constraints are
decisions D6 and D7), and no step changes the parameters. -/
def Obligations.ConfigurationIsCheckedAndConstant : Prop :=
  ∀ (s : State),
    (s.cfg.qcap = 0 ∨ s.cfg.pollBound = 0 → step s = .refused .badConfiguration) ∧
    (∀ t, step s = .next t → t.cfg = s.cfg)

/-! ### The environments and reset -/

/-- The transport's acts (60_exceptions.md section 8, decision D19): they touch the two queues and the host's
bytes and nothing else, keep both streams in order, lose no byte, and never overfill `INQ`. -/
def Obligations.TransportKeepsBothStreams : Prop :=
  ∀ (s t : State) (ev : Event) (es : List Event), s.cfg.wf = true → s.agenda = ev :: es →
    ev = .append ∨ ev = .remove → step s = .next t →
    t.inq ++ t.hostStream = s.inq ++ s.hostStream ∧
    t.hostReceived ++ t.outq = s.hostReceived ++ s.outq ∧
    (s.inq.length ≤ s.cfg.qcap → t.inq.length ≤ s.cfg.qcap) ∧
    (ev = .append → s.hostStream ≠ [] → s.inqFull = false → t.inq.length = s.inq.length + 1) ∧
    (ev = .remove → s.outq ≠ [] → s.outq.length = t.outq.length + 1) ∧
    { t with
      inq := s.inq, outq := s.outq, hostStream := s.hostStream, hostReceived := s.hostReceived
      agenda := s.agenda } = s

/-- The reference device `SimDev` (20_memory.md section 6, decision D15): after a write cycle a read cycle of
the same location gives the byte written, and one of any other location what it would have given before. -/
def Obligations.SimDevStoresEachWrite : Prop :=
  ∀ (s t : State) (address : Addr) (v : Byte) (mem : Memory), s.device = .simDev mem → mem.wf = true →
    exec (.writeByte address v) s = .next t →
    t.device.wf = true ∧
    ∀ x : DevAddr, t.answer x = if x = (address &&& 0x7FFF).setWidth 15 then v else s.answer x

/-- The reference device `Script(bs)` (20_memory.md section 6, decision D15) answers successive read cycles
with its bytes in order, whatever the address, and a write cycle does not move it. -/
def Obligations.ScriptAnswersInOrder : Prop :=
  ∀ (s : State) (bs more : List Byte) (a : DevAddr), s.device = .script (bs ++ more) →
    State.answers a bs.length s = bs ∧
    ∀ v b rest, bs ++ more = b :: rest →
      (s.emitWrite a v).answer a = b ∧ (s.emitRead a b).device = .script rest

/-- Round trip (43_commands.md section 5, a property of the block together with `SimDev`): `w A V` then `r A`
gives V as both replies, for every 16-bit A. -/
def Obligations.WriteThenReadRoundTrips : Prop :=
  ∀ (s : State) (hi lo v : Byte) (rest : List Byte) (mem : Memory), s.cfg.wf = true → s.agenda = [] →
    s.quiet = true → s.device = .simDev mem → mem.wf = true → s.pstate = .awaitOpcode →
    s.inq = [0x77, hi, lo, v, 0x72, hi, lo] ++ rest → s.outq.length + 2 ≤ s.cfg.qcap →
    ∃ t, Host.Core.run Sys2Proof.core 6 s = .next t ∧ t.outq = s.outq ++ [v, v] ∧ t.inq = rest ∧
      t.pstate = .awaitOpcode

/-- Fragmentation tolerance (43_commands.md section 5, which the spec derives from R153 and R155).  Two states that
agree on everything but how the host's bytes lie between transport and `INQ`, how the replies lie between
`OUTQ` and host, and what the transport and the run loop will do: run each for any number of steps, and the
bus events and replies of one run are the beginning of those of the other.  The device answers as a function
of what it has seen, which is how the model's devices answer. -/
def Obligations.FragmentationDoesNotMatter : Prop :=
  ∀ (s₁ s₂ t₁ t₂ : State) (n₁ n₂ : Nat), s₁.cfg.wf = true → s₁.quiet = true →
    { s₁ with
      inq := s₂.inq, hostStream := s₂.hostStream, outq := s₂.outq, hostReceived := s₂.hostReceived
      agenda := s₂.agenda } = s₂ →
    s₁.inq ++ s₁.hostStream = s₂.inq ++ s₂.hostStream →
    s₁.hostReceived ++ s₁.outq = s₂.hostReceived ++ s₂.outq →
    (∀ ev ∈ s₁.agenda, ev.ordinary = true) → (∀ ev ∈ s₂.agenda, ev.ordinary = true) →
    Host.Core.run Sys2Proof.core n₁ s₁ = .next t₁ → Host.Core.run Sys2Proof.core n₂ s₂ = .next t₂ →
    (t₁.trace <+: t₂.trace ∧ t₁.hostReceived ++ t₁.outq <+: t₂.hostReceived ++ t₂.outq) ∨
    (t₂.trace <+: t₁.trace ∧ t₂.hostReceived ++ t₂.outq <+: t₁.hostReceived ++ t₁.outq)

/-- The state after reset, as far as the spec says what it is (70_reset_and_hazards.md section 1: `PSTATE` is
the source's, the queues and the bus are the spec's decision D8). -/
def Obligations.ResetState : Prop :=
  State.reset.pstate = .awaitOpcode ∧ State.reset.inq = [] ∧ State.reset.outq = [] ∧
    State.reset.bus.idle = true ∧ State.reset.quiet = true ∧ State.reset.trace = [] ∧
    State.reset.cfg.qcap = 10 ∧ State.reset.cfg.pollBound = 2500

/-- Power-on reset between two invocations, in the middle of an invocation or in the middle of a requested
operation (70_reset_and_hazards.md section 1, decision D16): the lines are released in the order WE, OE, CE,
address, data from the levels of that moment, the bus is idle, the queues are empty, `PSTATE` is AwaitOpcode
and no event of the cut work is in `TRACE`.  The levels of that moment are `BUS` as it stands, for a reset
between invocations; for a cut, those the work presents after its primitive number `k + 1`, or those it ends
with if it has no more primitives than `k`.  That a cut falls after a counted primitive is
notes/assumptions/9.md, that `pinTrace` holds the levels and starts again with the five of the release, with
the old latches, is notes/assumptions/10.md and 4.md. -/
def Obligations.PowerCutReleasesTheBus : Prop :=
  ∀ (s t : State) (ev : Event) (es : List Event), s.agenda = ev :: es → ev.resets = true →
    step s = .next t →
    let start : State := { s with agenda := es }
    let levelsAt (k : Nat) (done : State) : Bus := ((done.pinTrace.drop s.pinTrace.length)[k]?).getD done.bus
    t.quiet = true ∧ t.pstate = .awaitOpcode ∧ t.inq = [] ∧ t.outq = [] ∧ t.trace = [] ∧
    ∃ b : Bus,
      t.pinTrace =
        [{ b with weN := true }, { b with weN := true, oeN := true },
          { b with weN := true, oeN := true, ceN := true },
          { b with weN := true, oeN := true, ceN := true, aEn := false },
          { b with weN := true, oeN := true, ceN := true, aEn := false, dDir := false, dPu := true }] ∧
      (ev = .powerCycle → b = s.bus) ∧
      (∀ k, ev = .cutInvocation k → ∃ done, advance start = .next done ∧ b = levelsAt k done) ∧
      (∀ k q, ev = .cutRequest k q → ∃ done, serveRequest q start = .next done ∧ b = levelsAt k done)

/-- Nothing survives reset but what is not the block's (70_reset_and_hazards.md section 1): a power cycle
between two invocations gives the reset state, with the parameters, the device, the host's bytes and what is
left of the agenda as they are.  The model's own choices here: the values of the registers
(notes/assumptions/4.md); the counter of free values goes on (notes/assumptions/1.md); and the record of the
pin level is not kept but starts again with the levels of the release (notes/assumptions/10.md). -/
def Obligations.NothingSurvivesAPowerCycle : Prop :=
  ∀ (s : State) (es : List Event), s.cfg.wf = true → s.agenda = .powerCycle :: es → ∃ t,
    step s = .next t ∧
    { t with
      cfg := State.reset.cfg, device := State.reset.device, draw := State.reset.draw
      hostStream := State.reset.hostStream, hostReceived := State.reset.hostReceived
      agenda := State.reset.agenda, pinTrace := State.reset.pinTrace } = State.reset ∧
    t.cfg = s.cfg ∧ t.device = s.device ∧ t.hostStream = s.hostStream ∧ t.hostReceived = s.hostReceived ∧
    t.agenda = es ∧ t.draw = s.draw ∧ t.pinTrace = busAfterEach resetRelease s.bus

/-! ### The whole machine -/

/-- Every step keeps the invariant of the machine (Safety.lean `State.Inv`), from every state that meets it:
among it, `BUS` idle between steps (10_state.md section 5), queues within `QCAP` (10_state.md section 4), and
the pin-level invariants of 40_bus_cycles.md section 4 for every level presented since reset, which the model
keeps in `pinTrace` (notes/assumptions/10.md).  For a step that resets the block, the ranges of `POLL_ITER`
and `SEQ_IDX` hold because the model makes them zero there, and the levels of the release, with the old
latches, are the model's record too: the spec leaves those registers unspecified, and the values are the
model's choice (notes/assumptions/4.md). -/
def Obligations.StepKeepsTheInvariant : Prop :=
  ∀ (s t : State), s.Inv → step s = .next t → t.Inv

/-- The invariant holds after reset.  What 10_state.md section 8 and 00_scope.md section 4 give: `PSTATE`
AwaitOpcode, the queues empty, `BUS` idle, the parameters in range.  The ranges of `POLL_ITER` and `SEQ_IDX`
(`pollBounded`, `seqBounded`) hold only because the model makes both registers zero at reset, where the spec
leaves them unspecified: the model's choice (notes/assumptions/4.md).  So are the empty record of the pin level
(notes/assumptions/10.md) and the oracle as the device (notes/assumptions/8.md). -/
def Obligations.ResetMeetsTheInvariant : Prop := State.reset.Inv

/-- From every state that meets the invariant an invocation returns and performs no illegal queue or bus
operation (43_commands.md section 1, 10_state.md section 4), and so does every other step but a request with a
reserved `OP_SEL`. -/
def Obligations.EveryStepReturns : Prop :=
  ∀ (s : State), s.Inv →
    (∀ q es, s.agenda = .request q :: es → q.sel.toNat < 5) →
    (∀ k q es, s.agenda = .cutRequest k q :: es → q.sel.toNat < 5) →
    ∃ t, step s = .next t

/-- `TRACE` only grows, but for reset (10_state.md section 9), and so does the model's own record of the pin
level, `pinTrace` (notes/assumptions/10.md), of which the spec does not speak. -/
def Obligations.TraceOnlyGrows : Prop :=
  ∀ (s t : State), (∀ ev es, s.agenda = ev :: es → ev.resets = false) → step s = .next t →
    s.trace <+: t.trace ∧ s.pinTrace <+: t.pinTrace

/-- From a complete run on, every invocation stalls and nothing changes (70_reset_and_hazards.md section 5, a
definition of the spec, decision D25). -/
def Obligations.CompleteRunStaysComplete : Prop :=
  ∀ (s : State) (n : Nat), s.cfg.wf = true → s.agenda = [] → s.complete →
    Host.Core.run Sys2Proof.core n s = .next s

/-- A run that is stuck never becomes complete, whatever the transport does after it
(70_reset_and_hazards.md section 5, a definition of the spec, decision D25). -/
def Obligations.StuckRunNeverCompletes : Prop :=
  ∀ (s t : State) (n : Nat), s.stuck → (∀ ev ∈ s.agenda, ev.ordinary = true) →
    Host.Core.run Sys2Proof.core n s = .next t → t.stuck ∧ ¬ t.complete
end

