-- ==== Sys2Proof/Laws/Decode.lean ====
section
/-! SUPPORT. The lemmas of the address operand and of the opcode byte. -/

namespace Sys2Proof

/-- The first byte is the high byte (30_encoding.md R83). -/
theorem assembleAddr_toNat (hi lo : Byte) : (assembleAddr hi lo).toNat = hi.toNat * 256 + lo.toNat := by
  have hh := hi.isLt
  have hl := lo.isLt
  have hs : (hi.setWidth 16 <<< 8).toNat = hi.toNat <<< 8 := by
    simp [BitVec.toNat_shiftLeft, Nat.shiftLeft_eq]
    omega
  rw [assembleAddr, BitVec.toNat_or, hs, BitVec.toNat_setWidth, Nat.mod_eq_of_lt (by omega),
    ← Nat.shiftLeft_add_eq_or_of_lt hl, Nat.shiftLeft_eq]

theorem assembleAddr_append (hi lo : Byte) : assembleAddr hi lo = (hi ++ lo : BitVec (8 + 8)) := by
  apply BitVec.eq_of_toNat_eq
  rw [assembleAddr_toNat, BitVec.toNat_append, ← Nat.shiftLeft_add_eq_or_of_lt lo.isLt, Nat.shiftLeft_eq]

theorem highByte_toNat (a : Addr) : (highByte a).toNat = a.toNat / 256 := by
  have := a.isLt
  simp [highByte, Nat.shiftRight_eq_div_pow]
  omega

theorem lowByte_toNat (a : Addr) : (lowByte a).toNat = a.toNat % 256 := by
  simp [lowByte]

/-- An address is its two bytes. -/
@[simp] theorem assembleAddr_bytes (a : Addr) : assembleAddr (highByte a) (lowByte a) = a := by
  apply BitVec.eq_of_toNat_eq
  rw [assembleAddr_toNat, highByte_toNat, lowByte_toNat]
  omega

@[simp] theorem highByte_assembleAddr (hi lo : Byte) : highByte (assembleAddr hi lo) = hi := by
  apply BitVec.eq_of_toNat_eq
  rw [highByte_toNat, assembleAddr_toNat]
  have := lo.isLt
  omega

@[simp] theorem lowByte_assembleAddr (hi lo : Byte) : lowByte (assembleAddr hi lo) = lo := by
  apply BitVec.eq_of_toNat_eq
  rw [lowByte_toNat, assembleAddr_toNat]
  have := lo.isLt
  omega

/-- The five classes of opcode byte, with the bytes in each (30_encoding.md R92). -/
theorem opcodeClass_cases (b : Byte) :
    (b = opcProtOn ∧ opcodeClass b = .protOn) ∨ (b = opcProtOff ∧ opcodeClass b = .protOff) ∨
      (b = opcRead ∧ opcodeClass b = .read) ∨ (b = opcWrite ∧ opcodeClass b = .write) ∨
      (b ≠ opcProtOn ∧ b ≠ opcProtOff ∧ b ≠ opcRead ∧ b ≠ opcWrite ∧ opcodeClass b = .unrecognised) := by
  unfold opcodeClass
  by_cases h₁ : b = opcProtOn
  · exact .inl ⟨h₁, if_pos h₁⟩
  by_cases h₂ : b = opcProtOff
  · exact .inr (.inl ⟨h₂, by rw [if_neg h₁, if_pos h₂]⟩)
  by_cases h₃ : b = opcRead
  · exact .inr (.inr (.inl ⟨h₃, by rw [if_neg h₁, if_neg h₂, if_pos h₃]⟩))
  by_cases h₄ : b = opcWrite
  · exact .inr (.inr (.inr (.inl ⟨h₄, by rw [if_neg h₁, if_neg h₂, if_neg h₃, if_pos h₄]⟩)))
  · exact .inr (.inr (.inr (.inr ⟨h₁, h₂, h₃, h₄, by rw [if_neg h₁, if_neg h₂, if_neg h₃, if_neg h₄]⟩)))

/-- The opcode of a well-formed `unk` is in the last class (30_encoding.md R87). -/
theorem opcodeClass_of_wf_unk {b : Byte} {a : Addr} (h : (Instr.unk b a).wf = true) :
    opcodeClass b = .unrecognised := by
  rcases opcodeClass_cases b with ⟨rfl, _⟩ | ⟨rfl, _⟩ | ⟨rfl, _⟩ | ⟨rfl, _⟩ | ⟨_, _, _, _, hc⟩
  · cases h
  · cases h
  · cases h
  · cases h
  · exact hc

end Sys2Proof
end

