-- ==== Sys2Proof/Laws/Memory.lean ====
section
/-! SUPPORT. The laws of the device's contents: a read after a write, and the canonical form. -/

namespace Sys2Proof.Machine

theorem Memory.wfFrom_mono {lo hi : Nat} {m : Memory} (h : Memory.wfFrom hi m = true) (hle : lo ≤ hi) :
    Memory.wfFrom lo m = true := by
  cases m with
  | nil => rfl
  | cons c rest =>
    simp only [Memory.wfFrom, Bool.and_eq_true, decide_eq_true_eq] at h ⊢
    exact ⟨⟨⟨Nat.le_trans hle h.1.1.1, h.1.1.2⟩, h.1.2⟩, h.2⟩

/-- A canonical memory that lists only addresses from `lo` on reads as background below `lo`. -/
theorem Memory.read_below {lo : Nat} {m : Memory} {a : DevAddr} (h : Memory.wfFrom lo m = true)
    (ha : a.toNat < lo) : Memory.read m a = Memory.background := by
  induction m generalizing lo with
  | nil => rfl
  | cons c rest ih =>
    simp only [Memory.wfFrom, Bool.and_eq_true, decide_eq_true_eq] at h
    have hne : c.1 ≠ a.toNat := by omega
    simp only [Memory.read, if_neg hne]
    exact ih h.2 (by omega)

theorem Memory.write_wfFrom {lo : Nat} {m : Memory} {a : DevAddr} {v : Byte}
    (h : Memory.wfFrom lo m = true) (ha : lo ≤ a.toNat) : Memory.wfFrom lo (Memory.write m a v) = true := by
  induction m generalizing lo with
  | nil =>
    have := a.isLt
    simp only [Memory.write]
    split <;> simp_all [Memory.wfFrom]
  | cons c rest ih =>
    obtain ⟨k, x⟩ := c
    have hlt := a.isLt
    simp only [Memory.wfFrom, Bool.and_eq_true, decide_eq_true_eq] at h
    obtain ⟨⟨⟨hk, hk15⟩, hx⟩, hrest⟩ := h
    simp only [Memory.write]
    split
    · split
      · simp only [Memory.wfFrom, Bool.and_eq_true, decide_eq_true_eq]
        exact ⟨⟨⟨hk, hk15⟩, hx⟩, hrest⟩
      · simp only [Memory.wfFrom, Bool.and_eq_true, decide_eq_true_eq]
        exact ⟨⟨⟨ha, hlt⟩, ‹_›⟩, ⟨⟨by omega, hk15⟩, hx⟩, hrest⟩
    · split
      · split
        · exact Memory.wfFrom_mono hrest (by omega)
        · simp only [Memory.wfFrom, Bool.and_eq_true, decide_eq_true_eq]
          exact ⟨⟨⟨hk, hk15⟩, ‹_›⟩, hrest⟩
      · simp only [Memory.wfFrom, Bool.and_eq_true, decide_eq_true_eq]
        exact ⟨⟨⟨hk, hk15⟩, hx⟩, ih hrest (by omega)⟩

/-- Every write keeps the canonical form. -/
theorem Memory.write_wf {m : Memory} {a : DevAddr} {v : Byte} (h : Memory.wf m = true) :
    Memory.wf (Memory.write m a v) = true :=
  Memory.write_wfFrom h (Nat.zero_le _)

theorem Memory.read_write_self {lo : Nat} {m : Memory} {a : DevAddr} {v : Byte}
    (h : Memory.wfFrom lo m = true) : Memory.read (Memory.write m a v) a = v := by
  induction m generalizing lo with
  | nil =>
    simp only [Memory.write]
    split <;> simp_all [Memory.read]
  | cons c rest ih =>
    obtain ⟨k, x⟩ := c
    simp only [Memory.wfFrom, Bool.and_eq_true, decide_eq_true_eq] at h
    obtain ⟨⟨⟨hk, hk15⟩, hx⟩, hrest⟩ := h
    simp only [Memory.write]
    split
    · split
      · rename_i hv
        have hne : k ≠ a.toNat := by omega
        simp only [Memory.read, if_neg hne, hv]
        exact Memory.read_below hrest (by omega)
      · simp [Memory.read]
    · split
      · split
        · rename_i hak hv
          rw [hv]
          exact Memory.read_below hrest (by omega)
        · rename_i hak _
          simp [Memory.read, hak]
      · rename_i hne
        have hne' : k ≠ a.toNat := fun he => hne he.symm
        simp only [Memory.read, if_neg hne']
        exact ih hrest

/-- A read of the written address gives the written byte. -/
theorem Memory.read_write_same {m : Memory} {a : DevAddr} {v : Byte} (h : Memory.wf m = true) :
    Memory.read (Memory.write m a v) a = v :=
  Memory.read_write_self h

/-- A write leaves every other address alone. -/
theorem Memory.read_write_other {m : Memory} {a b : DevAddr} {v : Byte} (h : b ≠ a) :
    Memory.read (Memory.write m a v) b = Memory.read m b := by
  have hn : a.toNat ≠ b.toNat := fun he => h (BitVec.eq_of_toNat_eq he.symm)
  induction m with
  | nil =>
    simp only [Memory.write]
    split <;> simp [Memory.read, hn]
  | cons c rest ih =>
    obtain ⟨k, x⟩ := c
    simp only [Memory.write]
    split
    · split <;> simp [Memory.read, hn]
    · split
      · rename_i hak
        have hkb : k ≠ b.toNat := hak ▸ hn
        split <;> simp [Memory.read, hkb]
      · simp only [Memory.read, ih]

/-- A read cycle changes no byte the device is known to hold. -/
@[simp] theorem Device.afterRead_peek (dev : Device) (a : DevAddr) : dev.afterRead.peek a = dev.peek a := by
  cases dev <;> rfl

@[simp] theorem Device.afterRead_wf (dev : Device) : dev.afterRead.wf = dev.wf := by
  cases dev <;> rfl

/-- A write cycle keeps the canonical form of the device's contents. -/
theorem Device.afterWrite_wf {dev : Device} {a : DevAddr} {v : Byte} (h : dev.wf = true) :
    (dev.afterWrite a v).wf = true := by
  cases dev with
  | oracle => rfl
  | simDev mem => exact Memory.write_wf h
  | script bs => rfl

/-- A write cycle changes no byte but the one it stores to. -/
theorem Device.afterWrite_peek_other {dev : Device} {a b : DevAddr} {v : Byte} (h : b ≠ a) :
    (dev.afterWrite a v).peek b = dev.peek b := by
  cases dev with
  | oracle => rfl
  | simDev mem => simp [Device.afterWrite, Device.peek, Memory.read_write_other h]
  | script bs => rfl

end Sys2Proof.Machine
end

