-- ==== Sys2Proof/Laws/State.lean ====
section
/-! SUPPORT. One lemma per field per update of State, so that no proof unfolds a record update. -/

namespace Sys2Proof.Machine

variable (s : State)

/-! ### setPstate -/

@[simp] theorem State.setPstate_cfg (p : PState) : (s.setPstate p).cfg = s.cfg := rfl
@[simp] theorem State.setPstate_pstate (p : PState) : (s.setPstate p).pstate = p := rfl
@[simp] theorem State.setPstate_cmdOp (p : PState) : (s.setPstate p).cmdOp = s.cmdOp := rfl
@[simp] theorem State.setPstate_cmdAddr (p : PState) : (s.setPstate p).cmdAddr = s.cmdAddr := rfl
@[simp] theorem State.setPstate_inq (p : PState) : (s.setPstate p).inq = s.inq := rfl
@[simp] theorem State.setPstate_outq (p : PState) : (s.setPstate p).outq = s.outq := rfl
@[simp] theorem State.setPstate_bus (p : PState) : (s.setPstate p).bus = s.bus := rfl
@[simp] theorem State.setPstate_pollIter (p : PState) : (s.setPstate p).pollIter = s.pollIter := rfl
@[simp] theorem State.setPstate_pollObs (p : PState) : (s.setPstate p).pollObs = s.pollObs := rfl
@[simp] theorem State.setPstate_seqIdx (p : PState) : (s.setPstate p).seqIdx = s.seqIdx := rfl
@[simp] theorem State.setPstate_poller (p : PState) : (s.setPstate p).poller = s.poller := rfl
@[simp] theorem State.setPstate_runner (p : PState) : (s.setPstate p).runner = s.runner := rfl
@[simp] theorem State.setPstate_opResult (p : PState) : (s.setPstate p).opResult = s.opResult := rfl
@[simp] theorem State.setPstate_trace (p : PState) : (s.setPstate p).trace = s.trace := rfl
@[simp] theorem State.setPstate_pinTrace (p : PState) : (s.setPstate p).pinTrace = s.pinTrace := rfl
@[simp] theorem State.setPstate_device (p : PState) : (s.setPstate p).device = s.device := rfl
@[simp] theorem State.setPstate_draw (p : PState) : (s.setPstate p).draw = s.draw := rfl
@[simp] theorem State.setPstate_hostStream (p : PState) : (s.setPstate p).hostStream = s.hostStream := rfl
@[simp] theorem State.setPstate_hostReceived (p : PState) : (s.setPstate p).hostReceived = s.hostReceived := rfl
@[simp] theorem State.setPstate_agenda (p : PState) : (s.setPstate p).agenda = s.agenda := rfl

/-! ### setCmdOp -/

@[simp] theorem State.setCmdOp_cfg (b : Byte) : (s.setCmdOp b).cfg = s.cfg := rfl
@[simp] theorem State.setCmdOp_pstate (b : Byte) : (s.setCmdOp b).pstate = s.pstate := rfl
@[simp] theorem State.setCmdOp_cmdOp (b : Byte) : (s.setCmdOp b).cmdOp = b := rfl
@[simp] theorem State.setCmdOp_cmdAddr (b : Byte) : (s.setCmdOp b).cmdAddr = s.cmdAddr := rfl
@[simp] theorem State.setCmdOp_inq (b : Byte) : (s.setCmdOp b).inq = s.inq := rfl
@[simp] theorem State.setCmdOp_outq (b : Byte) : (s.setCmdOp b).outq = s.outq := rfl
@[simp] theorem State.setCmdOp_bus (b : Byte) : (s.setCmdOp b).bus = s.bus := rfl
@[simp] theorem State.setCmdOp_pollIter (b : Byte) : (s.setCmdOp b).pollIter = s.pollIter := rfl
@[simp] theorem State.setCmdOp_pollObs (b : Byte) : (s.setCmdOp b).pollObs = s.pollObs := rfl
@[simp] theorem State.setCmdOp_seqIdx (b : Byte) : (s.setCmdOp b).seqIdx = s.seqIdx := rfl
@[simp] theorem State.setCmdOp_poller (b : Byte) : (s.setCmdOp b).poller = s.poller := rfl
@[simp] theorem State.setCmdOp_runner (b : Byte) : (s.setCmdOp b).runner = s.runner := rfl
@[simp] theorem State.setCmdOp_opResult (b : Byte) : (s.setCmdOp b).opResult = s.opResult := rfl
@[simp] theorem State.setCmdOp_trace (b : Byte) : (s.setCmdOp b).trace = s.trace := rfl
@[simp] theorem State.setCmdOp_pinTrace (b : Byte) : (s.setCmdOp b).pinTrace = s.pinTrace := rfl
@[simp] theorem State.setCmdOp_device (b : Byte) : (s.setCmdOp b).device = s.device := rfl
@[simp] theorem State.setCmdOp_draw (b : Byte) : (s.setCmdOp b).draw = s.draw := rfl
@[simp] theorem State.setCmdOp_hostStream (b : Byte) : (s.setCmdOp b).hostStream = s.hostStream := rfl
@[simp] theorem State.setCmdOp_hostReceived (b : Byte) : (s.setCmdOp b).hostReceived = s.hostReceived := rfl
@[simp] theorem State.setCmdOp_agenda (b : Byte) : (s.setCmdOp b).agenda = s.agenda := rfl

/-! ### setCmdAddr -/

@[simp] theorem State.setCmdAddr_cfg (a : Addr) : (s.setCmdAddr a).cfg = s.cfg := rfl
@[simp] theorem State.setCmdAddr_pstate (a : Addr) : (s.setCmdAddr a).pstate = s.pstate := rfl
@[simp] theorem State.setCmdAddr_cmdOp (a : Addr) : (s.setCmdAddr a).cmdOp = s.cmdOp := rfl
@[simp] theorem State.setCmdAddr_cmdAddr (a : Addr) : (s.setCmdAddr a).cmdAddr = a := rfl
@[simp] theorem State.setCmdAddr_inq (a : Addr) : (s.setCmdAddr a).inq = s.inq := rfl
@[simp] theorem State.setCmdAddr_outq (a : Addr) : (s.setCmdAddr a).outq = s.outq := rfl
@[simp] theorem State.setCmdAddr_bus (a : Addr) : (s.setCmdAddr a).bus = s.bus := rfl
@[simp] theorem State.setCmdAddr_pollIter (a : Addr) : (s.setCmdAddr a).pollIter = s.pollIter := rfl
@[simp] theorem State.setCmdAddr_pollObs (a : Addr) : (s.setCmdAddr a).pollObs = s.pollObs := rfl
@[simp] theorem State.setCmdAddr_seqIdx (a : Addr) : (s.setCmdAddr a).seqIdx = s.seqIdx := rfl
@[simp] theorem State.setCmdAddr_poller (a : Addr) : (s.setCmdAddr a).poller = s.poller := rfl
@[simp] theorem State.setCmdAddr_runner (a : Addr) : (s.setCmdAddr a).runner = s.runner := rfl
@[simp] theorem State.setCmdAddr_opResult (a : Addr) : (s.setCmdAddr a).opResult = s.opResult := rfl
@[simp] theorem State.setCmdAddr_trace (a : Addr) : (s.setCmdAddr a).trace = s.trace := rfl
@[simp] theorem State.setCmdAddr_pinTrace (a : Addr) : (s.setCmdAddr a).pinTrace = s.pinTrace := rfl
@[simp] theorem State.setCmdAddr_device (a : Addr) : (s.setCmdAddr a).device = s.device := rfl
@[simp] theorem State.setCmdAddr_draw (a : Addr) : (s.setCmdAddr a).draw = s.draw := rfl
@[simp] theorem State.setCmdAddr_hostStream (a : Addr) : (s.setCmdAddr a).hostStream = s.hostStream := rfl
@[simp] theorem State.setCmdAddr_hostReceived (a : Addr) : (s.setCmdAddr a).hostReceived = s.hostReceived := rfl
@[simp] theorem State.setCmdAddr_agenda (a : Addr) : (s.setCmdAddr a).agenda = s.agenda := rfl

/-! ### setInq -/

@[simp] theorem State.setInq_cfg (q : List Byte) : (s.setInq q).cfg = s.cfg := rfl
@[simp] theorem State.setInq_pstate (q : List Byte) : (s.setInq q).pstate = s.pstate := rfl
@[simp] theorem State.setInq_cmdOp (q : List Byte) : (s.setInq q).cmdOp = s.cmdOp := rfl
@[simp] theorem State.setInq_cmdAddr (q : List Byte) : (s.setInq q).cmdAddr = s.cmdAddr := rfl
@[simp] theorem State.setInq_inq (q : List Byte) : (s.setInq q).inq = q := rfl
@[simp] theorem State.setInq_outq (q : List Byte) : (s.setInq q).outq = s.outq := rfl
@[simp] theorem State.setInq_bus (q : List Byte) : (s.setInq q).bus = s.bus := rfl
@[simp] theorem State.setInq_pollIter (q : List Byte) : (s.setInq q).pollIter = s.pollIter := rfl
@[simp] theorem State.setInq_pollObs (q : List Byte) : (s.setInq q).pollObs = s.pollObs := rfl
@[simp] theorem State.setInq_seqIdx (q : List Byte) : (s.setInq q).seqIdx = s.seqIdx := rfl
@[simp] theorem State.setInq_poller (q : List Byte) : (s.setInq q).poller = s.poller := rfl
@[simp] theorem State.setInq_runner (q : List Byte) : (s.setInq q).runner = s.runner := rfl
@[simp] theorem State.setInq_opResult (q : List Byte) : (s.setInq q).opResult = s.opResult := rfl
@[simp] theorem State.setInq_trace (q : List Byte) : (s.setInq q).trace = s.trace := rfl
@[simp] theorem State.setInq_pinTrace (q : List Byte) : (s.setInq q).pinTrace = s.pinTrace := rfl
@[simp] theorem State.setInq_device (q : List Byte) : (s.setInq q).device = s.device := rfl
@[simp] theorem State.setInq_draw (q : List Byte) : (s.setInq q).draw = s.draw := rfl
@[simp] theorem State.setInq_hostStream (q : List Byte) : (s.setInq q).hostStream = s.hostStream := rfl
@[simp] theorem State.setInq_hostReceived (q : List Byte) : (s.setInq q).hostReceived = s.hostReceived := rfl
@[simp] theorem State.setInq_agenda (q : List Byte) : (s.setInq q).agenda = s.agenda := rfl

/-! ### enqOut -/

@[simp] theorem State.enqOut_cfg (b : Byte) : (s.enqOut b).cfg = s.cfg := rfl
@[simp] theorem State.enqOut_pstate (b : Byte) : (s.enqOut b).pstate = s.pstate := rfl
@[simp] theorem State.enqOut_cmdOp (b : Byte) : (s.enqOut b).cmdOp = s.cmdOp := rfl
@[simp] theorem State.enqOut_cmdAddr (b : Byte) : (s.enqOut b).cmdAddr = s.cmdAddr := rfl
@[simp] theorem State.enqOut_inq (b : Byte) : (s.enqOut b).inq = s.inq := rfl
@[simp] theorem State.enqOut_outq (b : Byte) : (s.enqOut b).outq = s.outq ++ [b] := rfl
@[simp] theorem State.enqOut_bus (b : Byte) : (s.enqOut b).bus = s.bus := rfl
@[simp] theorem State.enqOut_pollIter (b : Byte) : (s.enqOut b).pollIter = s.pollIter := rfl
@[simp] theorem State.enqOut_pollObs (b : Byte) : (s.enqOut b).pollObs = s.pollObs := rfl
@[simp] theorem State.enqOut_seqIdx (b : Byte) : (s.enqOut b).seqIdx = s.seqIdx := rfl
@[simp] theorem State.enqOut_poller (b : Byte) : (s.enqOut b).poller = s.poller := rfl
@[simp] theorem State.enqOut_runner (b : Byte) : (s.enqOut b).runner = s.runner := rfl
@[simp] theorem State.enqOut_opResult (b : Byte) : (s.enqOut b).opResult = s.opResult := rfl
@[simp] theorem State.enqOut_trace (b : Byte) : (s.enqOut b).trace = s.trace := rfl
@[simp] theorem State.enqOut_pinTrace (b : Byte) : (s.enqOut b).pinTrace = s.pinTrace := rfl
@[simp] theorem State.enqOut_device (b : Byte) : (s.enqOut b).device = s.device := rfl
@[simp] theorem State.enqOut_draw (b : Byte) : (s.enqOut b).draw = s.draw := rfl
@[simp] theorem State.enqOut_hostStream (b : Byte) : (s.enqOut b).hostStream = s.hostStream := rfl
@[simp] theorem State.enqOut_hostReceived (b : Byte) : (s.enqOut b).hostReceived = s.hostReceived := rfl
@[simp] theorem State.enqOut_agenda (b : Byte) : (s.enqOut b).agenda = s.agenda := rfl

/-! ### setOpResult -/

@[simp] theorem State.setOpResult_cfg (b : Byte) : (s.setOpResult b).cfg = s.cfg := rfl
@[simp] theorem State.setOpResult_pstate (b : Byte) : (s.setOpResult b).pstate = s.pstate := rfl
@[simp] theorem State.setOpResult_cmdOp (b : Byte) : (s.setOpResult b).cmdOp = s.cmdOp := rfl
@[simp] theorem State.setOpResult_cmdAddr (b : Byte) : (s.setOpResult b).cmdAddr = s.cmdAddr := rfl
@[simp] theorem State.setOpResult_inq (b : Byte) : (s.setOpResult b).inq = s.inq := rfl
@[simp] theorem State.setOpResult_outq (b : Byte) : (s.setOpResult b).outq = s.outq := rfl
@[simp] theorem State.setOpResult_bus (b : Byte) : (s.setOpResult b).bus = s.bus := rfl
@[simp] theorem State.setOpResult_pollIter (b : Byte) : (s.setOpResult b).pollIter = s.pollIter := rfl
@[simp] theorem State.setOpResult_pollObs (b : Byte) : (s.setOpResult b).pollObs = s.pollObs := rfl
@[simp] theorem State.setOpResult_seqIdx (b : Byte) : (s.setOpResult b).seqIdx = s.seqIdx := rfl
@[simp] theorem State.setOpResult_poller (b : Byte) : (s.setOpResult b).poller = s.poller := rfl
@[simp] theorem State.setOpResult_runner (b : Byte) : (s.setOpResult b).runner = s.runner := rfl
@[simp] theorem State.setOpResult_opResult (b : Byte) : (s.setOpResult b).opResult = b := rfl
@[simp] theorem State.setOpResult_trace (b : Byte) : (s.setOpResult b).trace = s.trace := rfl
@[simp] theorem State.setOpResult_pinTrace (b : Byte) : (s.setOpResult b).pinTrace = s.pinTrace := rfl
@[simp] theorem State.setOpResult_device (b : Byte) : (s.setOpResult b).device = s.device := rfl
@[simp] theorem State.setOpResult_draw (b : Byte) : (s.setOpResult b).draw = s.draw := rfl
@[simp] theorem State.setOpResult_hostStream (b : Byte) : (s.setOpResult b).hostStream = s.hostStream := rfl
@[simp] theorem State.setOpResult_hostReceived (b : Byte) : (s.setOpResult b).hostReceived = s.hostReceived := rfl
@[simp] theorem State.setOpResult_agenda (b : Byte) : (s.setOpResult b).agenda = s.agenda := rfl

/-! ### setPollIter -/

@[simp] theorem State.setPollIter_cfg (n : Nat) : (s.setPollIter n).cfg = s.cfg := rfl
@[simp] theorem State.setPollIter_pstate (n : Nat) : (s.setPollIter n).pstate = s.pstate := rfl
@[simp] theorem State.setPollIter_cmdOp (n : Nat) : (s.setPollIter n).cmdOp = s.cmdOp := rfl
@[simp] theorem State.setPollIter_cmdAddr (n : Nat) : (s.setPollIter n).cmdAddr = s.cmdAddr := rfl
@[simp] theorem State.setPollIter_inq (n : Nat) : (s.setPollIter n).inq = s.inq := rfl
@[simp] theorem State.setPollIter_outq (n : Nat) : (s.setPollIter n).outq = s.outq := rfl
@[simp] theorem State.setPollIter_bus (n : Nat) : (s.setPollIter n).bus = s.bus := rfl
@[simp] theorem State.setPollIter_pollIter (n : Nat) : (s.setPollIter n).pollIter = n := rfl
@[simp] theorem State.setPollIter_pollObs (n : Nat) : (s.setPollIter n).pollObs = s.pollObs := rfl
@[simp] theorem State.setPollIter_seqIdx (n : Nat) : (s.setPollIter n).seqIdx = s.seqIdx := rfl
@[simp] theorem State.setPollIter_poller (n : Nat) : (s.setPollIter n).poller = s.poller := rfl
@[simp] theorem State.setPollIter_runner (n : Nat) : (s.setPollIter n).runner = s.runner := rfl
@[simp] theorem State.setPollIter_opResult (n : Nat) : (s.setPollIter n).opResult = s.opResult := rfl
@[simp] theorem State.setPollIter_trace (n : Nat) : (s.setPollIter n).trace = s.trace := rfl
@[simp] theorem State.setPollIter_pinTrace (n : Nat) : (s.setPollIter n).pinTrace = s.pinTrace := rfl
@[simp] theorem State.setPollIter_device (n : Nat) : (s.setPollIter n).device = s.device := rfl
@[simp] theorem State.setPollIter_draw (n : Nat) : (s.setPollIter n).draw = s.draw := rfl
@[simp] theorem State.setPollIter_hostStream (n : Nat) : (s.setPollIter n).hostStream = s.hostStream := rfl
@[simp] theorem State.setPollIter_hostReceived (n : Nat) : (s.setPollIter n).hostReceived = s.hostReceived := rfl
@[simp] theorem State.setPollIter_agenda (n : Nat) : (s.setPollIter n).agenda = s.agenda := rfl

/-! ### setPollObs -/

@[simp] theorem State.setPollObs_cfg (b : Byte) : (s.setPollObs b).cfg = s.cfg := rfl
@[simp] theorem State.setPollObs_pstate (b : Byte) : (s.setPollObs b).pstate = s.pstate := rfl
@[simp] theorem State.setPollObs_cmdOp (b : Byte) : (s.setPollObs b).cmdOp = s.cmdOp := rfl
@[simp] theorem State.setPollObs_cmdAddr (b : Byte) : (s.setPollObs b).cmdAddr = s.cmdAddr := rfl
@[simp] theorem State.setPollObs_inq (b : Byte) : (s.setPollObs b).inq = s.inq := rfl
@[simp] theorem State.setPollObs_outq (b : Byte) : (s.setPollObs b).outq = s.outq := rfl
@[simp] theorem State.setPollObs_bus (b : Byte) : (s.setPollObs b).bus = s.bus := rfl
@[simp] theorem State.setPollObs_pollIter (b : Byte) : (s.setPollObs b).pollIter = s.pollIter := rfl
@[simp] theorem State.setPollObs_pollObs (b : Byte) : (s.setPollObs b).pollObs = b := rfl
@[simp] theorem State.setPollObs_seqIdx (b : Byte) : (s.setPollObs b).seqIdx = s.seqIdx := rfl
@[simp] theorem State.setPollObs_poller (b : Byte) : (s.setPollObs b).poller = s.poller := rfl
@[simp] theorem State.setPollObs_runner (b : Byte) : (s.setPollObs b).runner = s.runner := rfl
@[simp] theorem State.setPollObs_opResult (b : Byte) : (s.setPollObs b).opResult = s.opResult := rfl
@[simp] theorem State.setPollObs_trace (b : Byte) : (s.setPollObs b).trace = s.trace := rfl
@[simp] theorem State.setPollObs_pinTrace (b : Byte) : (s.setPollObs b).pinTrace = s.pinTrace := rfl
@[simp] theorem State.setPollObs_device (b : Byte) : (s.setPollObs b).device = s.device := rfl
@[simp] theorem State.setPollObs_draw (b : Byte) : (s.setPollObs b).draw = s.draw := rfl
@[simp] theorem State.setPollObs_hostStream (b : Byte) : (s.setPollObs b).hostStream = s.hostStream := rfl
@[simp] theorem State.setPollObs_hostReceived (b : Byte) : (s.setPollObs b).hostReceived = s.hostReceived := rfl
@[simp] theorem State.setPollObs_agenda (b : Byte) : (s.setPollObs b).agenda = s.agenda := rfl

/-! ### setPoller -/

@[simp] theorem State.setPoller_cfg (c : PollCtl) : (s.setPoller c).cfg = s.cfg := rfl
@[simp] theorem State.setPoller_pstate (c : PollCtl) : (s.setPoller c).pstate = s.pstate := rfl
@[simp] theorem State.setPoller_cmdOp (c : PollCtl) : (s.setPoller c).cmdOp = s.cmdOp := rfl
@[simp] theorem State.setPoller_cmdAddr (c : PollCtl) : (s.setPoller c).cmdAddr = s.cmdAddr := rfl
@[simp] theorem State.setPoller_inq (c : PollCtl) : (s.setPoller c).inq = s.inq := rfl
@[simp] theorem State.setPoller_outq (c : PollCtl) : (s.setPoller c).outq = s.outq := rfl
@[simp] theorem State.setPoller_bus (c : PollCtl) : (s.setPoller c).bus = s.bus := rfl
@[simp] theorem State.setPoller_pollIter (c : PollCtl) : (s.setPoller c).pollIter = s.pollIter := rfl
@[simp] theorem State.setPoller_pollObs (c : PollCtl) : (s.setPoller c).pollObs = s.pollObs := rfl
@[simp] theorem State.setPoller_seqIdx (c : PollCtl) : (s.setPoller c).seqIdx = s.seqIdx := rfl
@[simp] theorem State.setPoller_poller (c : PollCtl) : (s.setPoller c).poller = c := rfl
@[simp] theorem State.setPoller_runner (c : PollCtl) : (s.setPoller c).runner = s.runner := rfl
@[simp] theorem State.setPoller_opResult (c : PollCtl) : (s.setPoller c).opResult = s.opResult := rfl
@[simp] theorem State.setPoller_trace (c : PollCtl) : (s.setPoller c).trace = s.trace := rfl
@[simp] theorem State.setPoller_pinTrace (c : PollCtl) : (s.setPoller c).pinTrace = s.pinTrace := rfl
@[simp] theorem State.setPoller_device (c : PollCtl) : (s.setPoller c).device = s.device := rfl
@[simp] theorem State.setPoller_draw (c : PollCtl) : (s.setPoller c).draw = s.draw := rfl
@[simp] theorem State.setPoller_hostStream (c : PollCtl) : (s.setPoller c).hostStream = s.hostStream := rfl
@[simp] theorem State.setPoller_hostReceived (c : PollCtl) : (s.setPoller c).hostReceived = s.hostReceived := rfl
@[simp] theorem State.setPoller_agenda (c : PollCtl) : (s.setPoller c).agenda = s.agenda := rfl

/-! ### setSeqIdx -/

@[simp] theorem State.setSeqIdx_cfg (i : BitVec 3) : (s.setSeqIdx i).cfg = s.cfg := rfl
@[simp] theorem State.setSeqIdx_pstate (i : BitVec 3) : (s.setSeqIdx i).pstate = s.pstate := rfl
@[simp] theorem State.setSeqIdx_cmdOp (i : BitVec 3) : (s.setSeqIdx i).cmdOp = s.cmdOp := rfl
@[simp] theorem State.setSeqIdx_cmdAddr (i : BitVec 3) : (s.setSeqIdx i).cmdAddr = s.cmdAddr := rfl
@[simp] theorem State.setSeqIdx_inq (i : BitVec 3) : (s.setSeqIdx i).inq = s.inq := rfl
@[simp] theorem State.setSeqIdx_outq (i : BitVec 3) : (s.setSeqIdx i).outq = s.outq := rfl
@[simp] theorem State.setSeqIdx_bus (i : BitVec 3) : (s.setSeqIdx i).bus = s.bus := rfl
@[simp] theorem State.setSeqIdx_pollIter (i : BitVec 3) : (s.setSeqIdx i).pollIter = s.pollIter := rfl
@[simp] theorem State.setSeqIdx_pollObs (i : BitVec 3) : (s.setSeqIdx i).pollObs = s.pollObs := rfl
@[simp] theorem State.setSeqIdx_seqIdx (i : BitVec 3) : (s.setSeqIdx i).seqIdx = i := rfl
@[simp] theorem State.setSeqIdx_poller (i : BitVec 3) : (s.setSeqIdx i).poller = s.poller := rfl
@[simp] theorem State.setSeqIdx_runner (i : BitVec 3) : (s.setSeqIdx i).runner = s.runner := rfl
@[simp] theorem State.setSeqIdx_opResult (i : BitVec 3) : (s.setSeqIdx i).opResult = s.opResult := rfl
@[simp] theorem State.setSeqIdx_trace (i : BitVec 3) : (s.setSeqIdx i).trace = s.trace := rfl
@[simp] theorem State.setSeqIdx_pinTrace (i : BitVec 3) : (s.setSeqIdx i).pinTrace = s.pinTrace := rfl
@[simp] theorem State.setSeqIdx_device (i : BitVec 3) : (s.setSeqIdx i).device = s.device := rfl
@[simp] theorem State.setSeqIdx_draw (i : BitVec 3) : (s.setSeqIdx i).draw = s.draw := rfl
@[simp] theorem State.setSeqIdx_hostStream (i : BitVec 3) : (s.setSeqIdx i).hostStream = s.hostStream := rfl
@[simp] theorem State.setSeqIdx_hostReceived (i : BitVec 3) : (s.setSeqIdx i).hostReceived = s.hostReceived := rfl
@[simp] theorem State.setSeqIdx_agenda (i : BitVec 3) : (s.setSeqIdx i).agenda = s.agenda := rfl

/-! ### setRunner -/

@[simp] theorem State.setRunner_cfg (c : RunCtl) : (s.setRunner c).cfg = s.cfg := rfl
@[simp] theorem State.setRunner_pstate (c : RunCtl) : (s.setRunner c).pstate = s.pstate := rfl
@[simp] theorem State.setRunner_cmdOp (c : RunCtl) : (s.setRunner c).cmdOp = s.cmdOp := rfl
@[simp] theorem State.setRunner_cmdAddr (c : RunCtl) : (s.setRunner c).cmdAddr = s.cmdAddr := rfl
@[simp] theorem State.setRunner_inq (c : RunCtl) : (s.setRunner c).inq = s.inq := rfl
@[simp] theorem State.setRunner_outq (c : RunCtl) : (s.setRunner c).outq = s.outq := rfl
@[simp] theorem State.setRunner_bus (c : RunCtl) : (s.setRunner c).bus = s.bus := rfl
@[simp] theorem State.setRunner_pollIter (c : RunCtl) : (s.setRunner c).pollIter = s.pollIter := rfl
@[simp] theorem State.setRunner_pollObs (c : RunCtl) : (s.setRunner c).pollObs = s.pollObs := rfl
@[simp] theorem State.setRunner_seqIdx (c : RunCtl) : (s.setRunner c).seqIdx = s.seqIdx := rfl
@[simp] theorem State.setRunner_poller (c : RunCtl) : (s.setRunner c).poller = s.poller := rfl
@[simp] theorem State.setRunner_runner (c : RunCtl) : (s.setRunner c).runner = c := rfl
@[simp] theorem State.setRunner_opResult (c : RunCtl) : (s.setRunner c).opResult = s.opResult := rfl
@[simp] theorem State.setRunner_trace (c : RunCtl) : (s.setRunner c).trace = s.trace := rfl
@[simp] theorem State.setRunner_pinTrace (c : RunCtl) : (s.setRunner c).pinTrace = s.pinTrace := rfl
@[simp] theorem State.setRunner_device (c : RunCtl) : (s.setRunner c).device = s.device := rfl
@[simp] theorem State.setRunner_draw (c : RunCtl) : (s.setRunner c).draw = s.draw := rfl
@[simp] theorem State.setRunner_hostStream (c : RunCtl) : (s.setRunner c).hostStream = s.hostStream := rfl
@[simp] theorem State.setRunner_hostReceived (c : RunCtl) : (s.setRunner c).hostReceived = s.hostReceived := rfl
@[simp] theorem State.setRunner_agenda (c : RunCtl) : (s.setRunner c).agenda = s.agenda := rfl

/-! ### setAgenda -/

@[simp] theorem State.setAgenda_cfg (es : List Event) : (s.setAgenda es).cfg = s.cfg := rfl
@[simp] theorem State.setAgenda_pstate (es : List Event) : (s.setAgenda es).pstate = s.pstate := rfl
@[simp] theorem State.setAgenda_cmdOp (es : List Event) : (s.setAgenda es).cmdOp = s.cmdOp := rfl
@[simp] theorem State.setAgenda_cmdAddr (es : List Event) : (s.setAgenda es).cmdAddr = s.cmdAddr := rfl
@[simp] theorem State.setAgenda_inq (es : List Event) : (s.setAgenda es).inq = s.inq := rfl
@[simp] theorem State.setAgenda_outq (es : List Event) : (s.setAgenda es).outq = s.outq := rfl
@[simp] theorem State.setAgenda_bus (es : List Event) : (s.setAgenda es).bus = s.bus := rfl
@[simp] theorem State.setAgenda_pollIter (es : List Event) : (s.setAgenda es).pollIter = s.pollIter := rfl
@[simp] theorem State.setAgenda_pollObs (es : List Event) : (s.setAgenda es).pollObs = s.pollObs := rfl
@[simp] theorem State.setAgenda_seqIdx (es : List Event) : (s.setAgenda es).seqIdx = s.seqIdx := rfl
@[simp] theorem State.setAgenda_poller (es : List Event) : (s.setAgenda es).poller = s.poller := rfl
@[simp] theorem State.setAgenda_runner (es : List Event) : (s.setAgenda es).runner = s.runner := rfl
@[simp] theorem State.setAgenda_opResult (es : List Event) : (s.setAgenda es).opResult = s.opResult := rfl
@[simp] theorem State.setAgenda_trace (es : List Event) : (s.setAgenda es).trace = s.trace := rfl
@[simp] theorem State.setAgenda_pinTrace (es : List Event) : (s.setAgenda es).pinTrace = s.pinTrace := rfl
@[simp] theorem State.setAgenda_device (es : List Event) : (s.setAgenda es).device = s.device := rfl
@[simp] theorem State.setAgenda_draw (es : List Event) : (s.setAgenda es).draw = s.draw := rfl
@[simp] theorem State.setAgenda_hostStream (es : List Event) : (s.setAgenda es).hostStream = s.hostStream := rfl
@[simp] theorem State.setAgenda_hostReceived (es : List Event) : (s.setAgenda es).hostReceived = s.hostReceived := rfl
@[simp] theorem State.setAgenda_agenda (es : List Event) : (s.setAgenda es).agenda = es := rfl

/-! ### drive -/

@[simp] theorem State.drive_cfg (ps : List Prim) : (s.drive ps).cfg = s.cfg := rfl
@[simp] theorem State.drive_pstate (ps : List Prim) : (s.drive ps).pstate = s.pstate := rfl
@[simp] theorem State.drive_cmdOp (ps : List Prim) : (s.drive ps).cmdOp = s.cmdOp := rfl
@[simp] theorem State.drive_cmdAddr (ps : List Prim) : (s.drive ps).cmdAddr = s.cmdAddr := rfl
@[simp] theorem State.drive_inq (ps : List Prim) : (s.drive ps).inq = s.inq := rfl
@[simp] theorem State.drive_outq (ps : List Prim) : (s.drive ps).outq = s.outq := rfl
@[simp] theorem State.drive_bus (ps : List Prim) : (s.drive ps).bus = busAfterAll ps s.bus := rfl
@[simp] theorem State.drive_pollIter (ps : List Prim) : (s.drive ps).pollIter = s.pollIter := rfl
@[simp] theorem State.drive_pollObs (ps : List Prim) : (s.drive ps).pollObs = s.pollObs := rfl
@[simp] theorem State.drive_seqIdx (ps : List Prim) : (s.drive ps).seqIdx = s.seqIdx := rfl
@[simp] theorem State.drive_poller (ps : List Prim) : (s.drive ps).poller = s.poller := rfl
@[simp] theorem State.drive_runner (ps : List Prim) : (s.drive ps).runner = s.runner := rfl
@[simp] theorem State.drive_opResult (ps : List Prim) : (s.drive ps).opResult = s.opResult := rfl
@[simp] theorem State.drive_trace (ps : List Prim) : (s.drive ps).trace = s.trace := rfl
@[simp] theorem State.drive_pinTrace (ps : List Prim) : (s.drive ps).pinTrace = s.pinTrace ++ busAfterEach ps s.bus := rfl
@[simp] theorem State.drive_device (ps : List Prim) : (s.drive ps).device = s.device := rfl
@[simp] theorem State.drive_draw (ps : List Prim) : (s.drive ps).draw = s.draw := rfl
@[simp] theorem State.drive_hostStream (ps : List Prim) : (s.drive ps).hostStream = s.hostStream := rfl
@[simp] theorem State.drive_hostReceived (ps : List Prim) : (s.drive ps).hostReceived = s.hostReceived := rfl
@[simp] theorem State.drive_agenda (ps : List Prim) : (s.drive ps).agenda = s.agenda := rfl

/-! ### emitRead -/

@[simp] theorem State.emitRead_cfg (a : DevAddr) (b : Byte) : (s.emitRead a b).cfg = s.cfg := rfl
@[simp] theorem State.emitRead_pstate (a : DevAddr) (b : Byte) : (s.emitRead a b).pstate = s.pstate := rfl
@[simp] theorem State.emitRead_cmdOp (a : DevAddr) (b : Byte) : (s.emitRead a b).cmdOp = s.cmdOp := rfl
@[simp] theorem State.emitRead_cmdAddr (a : DevAddr) (b : Byte) : (s.emitRead a b).cmdAddr = s.cmdAddr := rfl
@[simp] theorem State.emitRead_inq (a : DevAddr) (b : Byte) : (s.emitRead a b).inq = s.inq := rfl
@[simp] theorem State.emitRead_outq (a : DevAddr) (b : Byte) : (s.emitRead a b).outq = s.outq := rfl
@[simp] theorem State.emitRead_bus (a : DevAddr) (b : Byte) : (s.emitRead a b).bus = s.bus := rfl
@[simp] theorem State.emitRead_pollIter (a : DevAddr) (b : Byte) : (s.emitRead a b).pollIter = s.pollIter := rfl
@[simp] theorem State.emitRead_pollObs (a : DevAddr) (b : Byte) : (s.emitRead a b).pollObs = s.pollObs := rfl
@[simp] theorem State.emitRead_seqIdx (a : DevAddr) (b : Byte) : (s.emitRead a b).seqIdx = s.seqIdx := rfl
@[simp] theorem State.emitRead_poller (a : DevAddr) (b : Byte) : (s.emitRead a b).poller = s.poller := rfl
@[simp] theorem State.emitRead_runner (a : DevAddr) (b : Byte) : (s.emitRead a b).runner = s.runner := rfl
@[simp] theorem State.emitRead_opResult (a : DevAddr) (b : Byte) : (s.emitRead a b).opResult = s.opResult := rfl
@[simp] theorem State.emitRead_trace (a : DevAddr) (b : Byte) : (s.emitRead a b).trace = s.trace ++ [.rd a b] := rfl
@[simp] theorem State.emitRead_pinTrace (a : DevAddr) (b : Byte) : (s.emitRead a b).pinTrace = s.pinTrace := rfl
@[simp] theorem State.emitRead_device (a : DevAddr) (b : Byte) : (s.emitRead a b).device = s.device.afterRead := rfl
@[simp] theorem State.emitRead_draw (a : DevAddr) (b : Byte) : (s.emitRead a b).draw = s.draw + 1 := rfl
@[simp] theorem State.emitRead_hostStream (a : DevAddr) (b : Byte) : (s.emitRead a b).hostStream = s.hostStream := rfl
@[simp] theorem State.emitRead_hostReceived (a : DevAddr) (b : Byte) : (s.emitRead a b).hostReceived = s.hostReceived := rfl
@[simp] theorem State.emitRead_agenda (a : DevAddr) (b : Byte) : (s.emitRead a b).agenda = s.agenda := rfl

/-! ### emitWrite -/

@[simp] theorem State.emitWrite_cfg (a : DevAddr) (v : Byte) : (s.emitWrite a v).cfg = s.cfg := rfl
@[simp] theorem State.emitWrite_pstate (a : DevAddr) (v : Byte) : (s.emitWrite a v).pstate = s.pstate := rfl
@[simp] theorem State.emitWrite_cmdOp (a : DevAddr) (v : Byte) : (s.emitWrite a v).cmdOp = s.cmdOp := rfl
@[simp] theorem State.emitWrite_cmdAddr (a : DevAddr) (v : Byte) : (s.emitWrite a v).cmdAddr = s.cmdAddr := rfl
@[simp] theorem State.emitWrite_inq (a : DevAddr) (v : Byte) : (s.emitWrite a v).inq = s.inq := rfl
@[simp] theorem State.emitWrite_outq (a : DevAddr) (v : Byte) : (s.emitWrite a v).outq = s.outq := rfl
@[simp] theorem State.emitWrite_bus (a : DevAddr) (v : Byte) : (s.emitWrite a v).bus = s.bus := rfl
@[simp] theorem State.emitWrite_pollIter (a : DevAddr) (v : Byte) : (s.emitWrite a v).pollIter = s.pollIter := rfl
@[simp] theorem State.emitWrite_pollObs (a : DevAddr) (v : Byte) : (s.emitWrite a v).pollObs = s.pollObs := rfl
@[simp] theorem State.emitWrite_seqIdx (a : DevAddr) (v : Byte) : (s.emitWrite a v).seqIdx = s.seqIdx := rfl
@[simp] theorem State.emitWrite_poller (a : DevAddr) (v : Byte) : (s.emitWrite a v).poller = s.poller := rfl
@[simp] theorem State.emitWrite_runner (a : DevAddr) (v : Byte) : (s.emitWrite a v).runner = s.runner := rfl
@[simp] theorem State.emitWrite_opResult (a : DevAddr) (v : Byte) : (s.emitWrite a v).opResult = s.opResult := rfl
@[simp] theorem State.emitWrite_trace (a : DevAddr) (v : Byte) : (s.emitWrite a v).trace = s.trace ++ [.wr a v] := rfl
@[simp] theorem State.emitWrite_pinTrace (a : DevAddr) (v : Byte) : (s.emitWrite a v).pinTrace = s.pinTrace := rfl
@[simp] theorem State.emitWrite_device (a : DevAddr) (v : Byte) : (s.emitWrite a v).device = s.device.afterWrite a v := rfl
@[simp] theorem State.emitWrite_draw (a : DevAddr) (v : Byte) : (s.emitWrite a v).draw = s.draw := rfl
@[simp] theorem State.emitWrite_hostStream (a : DevAddr) (v : Byte) : (s.emitWrite a v).hostStream = s.hostStream := rfl
@[simp] theorem State.emitWrite_hostReceived (a : DevAddr) (v : Byte) : (s.emitWrite a v).hostReceived = s.hostReceived := rfl
@[simp] theorem State.emitWrite_agenda (a : DevAddr) (v : Byte) : (s.emitWrite a v).agenda = s.agenda := rfl

/-! ### reply -/

@[simp] theorem State.reply_cfg (b : Byte) : (s.reply b).cfg = s.cfg := rfl
@[simp] theorem State.reply_pstate (b : Byte) : (s.reply b).pstate = .awaitOpcode := rfl
@[simp] theorem State.reply_cmdOp (b : Byte) : (s.reply b).cmdOp = s.cmdOp := rfl
@[simp] theorem State.reply_cmdAddr (b : Byte) : (s.reply b).cmdAddr = s.cmdAddr := rfl
@[simp] theorem State.reply_inq (b : Byte) : (s.reply b).inq = s.inq := rfl
@[simp] theorem State.reply_outq (b : Byte) : (s.reply b).outq = s.outq ++ [b] := rfl
@[simp] theorem State.reply_bus (b : Byte) : (s.reply b).bus = s.bus := rfl
@[simp] theorem State.reply_pollIter (b : Byte) : (s.reply b).pollIter = s.pollIter := rfl
@[simp] theorem State.reply_pollObs (b : Byte) : (s.reply b).pollObs = s.pollObs := rfl
@[simp] theorem State.reply_seqIdx (b : Byte) : (s.reply b).seqIdx = s.seqIdx := rfl
@[simp] theorem State.reply_poller (b : Byte) : (s.reply b).poller = s.poller := rfl
@[simp] theorem State.reply_runner (b : Byte) : (s.reply b).runner = s.runner := rfl
@[simp] theorem State.reply_opResult (b : Byte) : (s.reply b).opResult = s.opResult := rfl
@[simp] theorem State.reply_trace (b : Byte) : (s.reply b).trace = s.trace := rfl
@[simp] theorem State.reply_pinTrace (b : Byte) : (s.reply b).pinTrace = s.pinTrace := rfl
@[simp] theorem State.reply_device (b : Byte) : (s.reply b).device = s.device := rfl
@[simp] theorem State.reply_draw (b : Byte) : (s.reply b).draw = s.draw := rfl
@[simp] theorem State.reply_hostStream (b : Byte) : (s.reply b).hostStream = s.hostStream := rfl
@[simp] theorem State.reply_hostReceived (b : Byte) : (s.reply b).hostReceived = s.hostReceived := rfl
@[simp] theorem State.reply_agenda (b : Byte) : (s.reply b).agenda = s.agenda := rfl

/-! ### The conditions, which these updates leave alone -/

@[simp] theorem State.setPstate_outqFull (s : State) (p : PState) : (s.setPstate p).outqFull = s.outqFull := rfl
@[simp] theorem State.setPstate_quiet (s : State) (p : PState) : (s.setPstate p).quiet = s.quiet := rfl
@[simp] theorem State.setCmdOp_outqFull (s : State) (b : Byte) : (s.setCmdOp b).outqFull = s.outqFull := rfl
@[simp] theorem State.setCmdOp_quiet (s : State) (b : Byte) : (s.setCmdOp b).quiet = s.quiet := rfl
@[simp] theorem State.setCmdAddr_outqFull (s : State) (a : Addr) : (s.setCmdAddr a).outqFull = s.outqFull := rfl
@[simp] theorem State.setCmdAddr_quiet (s : State) (a : Addr) : (s.setCmdAddr a).quiet = s.quiet := rfl
@[simp] theorem State.setInq_outqFull (s : State) (q : List Byte) : (s.setInq q).outqFull = s.outqFull := rfl
@[simp] theorem State.setInq_quiet (s : State) (q : List Byte) : (s.setInq q).quiet = s.quiet := rfl
@[simp] theorem State.setOpResult_outqFull (s : State) (b : Byte) : (s.setOpResult b).outqFull = s.outqFull := rfl
@[simp] theorem State.setOpResult_quiet (s : State) (b : Byte) : (s.setOpResult b).quiet = s.quiet := rfl
@[simp] theorem State.setPollIter_outqFull (s : State) (n : Nat) : (s.setPollIter n).outqFull = s.outqFull := rfl
@[simp] theorem State.setPollIter_quiet (s : State) (n : Nat) : (s.setPollIter n).quiet = s.quiet := rfl
@[simp] theorem State.setPollObs_outqFull (s : State) (b : Byte) : (s.setPollObs b).outqFull = s.outqFull := rfl
@[simp] theorem State.setPollObs_quiet (s : State) (b : Byte) : (s.setPollObs b).quiet = s.quiet := rfl
@[simp] theorem State.setSeqIdx_outqFull (s : State) (i : BitVec 3) : (s.setSeqIdx i).outqFull = s.outqFull := rfl
@[simp] theorem State.setSeqIdx_quiet (s : State) (i : BitVec 3) : (s.setSeqIdx i).quiet = s.quiet := rfl
@[simp] theorem State.setAgenda_outqFull (s : State) (es : List Event) : (s.setAgenda es).outqFull = s.outqFull := rfl
@[simp] theorem State.setAgenda_quiet (s : State) (es : List Event) : (s.setAgenda es).quiet = s.quiet := rfl

end Sys2Proof.Machine
end

