-- ==== Sys2Proof/Laws/Ops.lean ====
section
/-! SUPPORT. One spec lemma per shared operation: everything a bus cycle, POLL and a protection sequence can
do, and what they leave alone. -/

namespace Sys2Proof.Machine

/-! ### The lines -/

theorem busAfterAll_append (ps qs : List Prim) (b : Bus) :
    busAfterAll (ps ++ qs) b = busAfterAll qs (busAfterAll ps b) := by
  induction ps generalizing b with
  | nil => rfl
  | cons p ps ih => simp [busAfterAll, ih]

theorem busAfterEach_append (ps qs : List Prim) (b : Bus) :
    busAfterEach (ps ++ qs) b = busAfterEach ps b ++ busAfterEach qs (busAfterAll ps b) := by
  induction ps generalizing b with
  | nil => rfl
  | cons p ps ih => simp [busAfterEach, busAfterAll, ih]

/-- The primitives of a whole read cycle. -/
theorem read_cycle_idle {a : DevAddr} {t : Nat} {b : Bus} (h : b.idle = true) :
    (busAfterAll (readToSample a t ++ readRelease) b).idle = true := by
  cases b
  simp_all [Bus.idle, busAfterAll, readToSample, readRelease, Prim.apply]

/-- The primitives of a whole write cycle. -/
theorem write_cycle_idle {a : DevAddr} {v : Byte} {t : Nat} {b : Bus} (h : b.idle = true) :
    (busAfterAll (writeToEdge a v t ++ writeRelease) b).idle = true := by
  cases b
  simp_all [Bus.idle, busAfterAll, writeToEdge, writeRelease, Prim.apply]

/-- Reset leaves the lines idle whatever they were. -/
theorem reset_release_idle (b : Bus) : (busAfterAll resetRelease b).idle = true := rfl

/-! ### READ_BYTE and WRITE_BYTE -/

/-- The byte READ_BYTE returns is the device's answer at the masked address. -/
theorem readByte_result (address : Addr) (s : State) : (readByte address s).1 = s.answer (maskAddr address) :=
  rfl

/-- READ_BYTE's whole effect. -/
theorem readByte_state (address : Addr) (s : State) :
    (readByte address s).2 =
      { s with
        bus := busAfterAll (readToSample (maskAddr address) s.cfg.tAcc ++ readRelease) s.bus
        pinTrace :=
          s.pinTrace ++ busAfterEach (readToSample (maskAddr address) s.cfg.tAcc ++ readRelease) s.bus
        trace := s.trace ++ [.rd (maskAddr address) (s.answer (maskAddr address))]
        device := s.device.afterRead
        draw := s.draw + 1 } := by
  simp only [busAfterAll_append, busAfterEach_append, ← List.append_assoc]
  rfl

/-- WRITE_BYTE's whole effect. -/
theorem writeByte_state (address : Addr) (v : Byte) (s : State) :
    writeByte address v s =
      { s with
        bus := busAfterAll (writeToEdge (maskAddr address) v s.cfg.tWp ++ writeRelease) s.bus
        pinTrace :=
          s.pinTrace ++ busAfterEach (writeToEdge (maskAddr address) v s.cfg.tWp ++ writeRelease) s.bus
        trace := s.trace ++ [.wr (maskAddr address) v]
        device := s.device.afterWrite (maskAddr address) v } := by
  simp only [busAfterAll_append, busAfterEach_append, ← List.append_assoc]
  rfl

/-- What a bus cycle never touches: a function of the state that no update of the Bus Driver changes. -/
structure DriverFrame {β : Type} (f : State → β) : Prop where
  drive : ∀ s ps, f (State.drive s ps) = f s
  emitRead : ∀ s a b, f (State.emitRead s a b) = f s
  emitWrite : ∀ s a v, f (State.emitWrite s a v) = f s

theorem readByte_frame {β : Type} {f : State → β} (h : DriverFrame f) (address : Addr) (s : State) :
    f (readByte address s).2 = f s := by
  simp only [readByte, h.drive, h.emitRead]

theorem writeByte_frame {β : Type} {f : State → β} (h : DriverFrame f) (address : Addr) (v : Byte)
    (s : State) : f (writeByte address v s) = f s := by
  simp only [writeByte, h.drive, h.emitWrite]

theorem readByte_idle {address : Addr} {s : State} (h : s.bus.idle = true) :
    (readByte address s).2.bus.idle = true := by
  rw [readByte_state]
  exact read_cycle_idle h

theorem writeByte_idle {address : Addr} {v : Byte} {s : State} (h : s.bus.idle = true) :
    (writeByte address v s).bus.idle = true := by
  rw [writeByte_state]
  exact write_cycle_idle h

/-! ### POLL -/

/-- POLL's loop ends after some number `k` of reads: the first that gives the expected byte, or the last one
allowed. -/
theorem pollLoop_reads (address : Addr) (expected : Byte) (n : Nat) (s : State) :
    ∃ k, k ≤ n ∧ (0 < n → 0 < k) ∧
      pollLoop address expected n s = (pollRead address)^[k] s ∧
      (∀ j, 0 < j → j < k → ((pollRead address)^[j] s).pollObs ≠ expected) ∧
      (0 < n → ((pollRead address)^[k] s).pollObs = expected ∨ k = n) := by
  induction n generalizing s with
  | zero => exact ⟨0, Nat.le_refl 0, nofun, rfl, by omega, nofun⟩
  | succ n ih =>
    simp only [pollLoop]
    split
    · rename_i hx
      exact ⟨1, by omega, by omega, rfl, by omega, fun _ => .inl hx⟩
    · rename_i hx
      obtain ⟨k, hk, hpos, heq, hbefore, hend⟩ := ih (pollRead address s)
      refine ⟨k + 1, by omega, by omega, by rw [heq, Function.iterate_succ_apply], ?_, ?_⟩
      · intro j hj hjk
        obtain ⟨i, rfl⟩ : ∃ i, j = i + 1 := ⟨j - 1, by omega⟩
        rw [Function.iterate_succ_apply]
        rcases Nat.eq_zero_or_pos i with rfl | hi
        · exact hx
        · exact hbefore i hi (by omega)
      · intro _
        rw [Function.iterate_succ_apply]
        rcases Nat.eq_zero_or_pos n with rfl | hn
        · exact .inr (by omega)
        · exact (hend hn).imp id (by omega)

/-- A property that each read of POLL keeps holds after the loop. -/
theorem pollLoop_keeps {P : State → Prop} {address : Addr} {expected : Byte}
    (hread : ∀ s, P s → P (pollRead address s)) (n : Nat) {s : State} (h : P s) :
    P (pollLoop address expected n s) := by
  induction n generalizing s with
  | zero => exact h
  | succ n ih =>
    simp only [pollLoop]
    split
    · exact hread s h
    · exact ih (hread s h)

/-- What POLL never touches: what the Bus Driver and POLL's own registers leave alone. -/
structure PollFrame {β : Type} (f : State → β) : Prop extends DriverFrame f where
  setPollIter : ∀ s n, f (State.setPollIter s n) = f s
  setPollObs : ∀ s b, f (State.setPollObs s b) = f s
  setPoller : ∀ s c, f (State.setPoller s c) = f s

theorem pollRead_frame {β : Type} {f : State → β} (h : PollFrame f) (address : Addr) (s : State) :
    f (pollRead address s) = f s := by
  simp only [pollRead, h.setPoller, h.setPollIter, h.setPollObs, readByte_frame h.toDriverFrame]

theorem poll_frame {β : Type} {f : State → β} (h : PollFrame f) (address : Addr) (expected : Byte)
    (s : State) : f (poll address expected s).2 = f s := by
  simp only [poll, h.setPoller]
  exact pollLoop_keeps (P := fun t => f t = f s)
    (fun t ht => (pollRead_frame h address t).trans ht) _ (h.setPollIter s 0)

theorem pollRead_idle {address : Addr} {s : State} (h : s.bus.idle = true) :
    (pollRead address s).bus.idle = true :=
  readByte_idle (s := s.setPoller .pRead) h

theorem poll_idle {address : Addr} {expected : Byte} {s : State} (h : s.bus.idle = true) :
    (poll address expected s).2.bus.idle = true :=
  pollLoop_keeps (P := fun t => t.bus.idle = true) (fun _ => pollRead_idle) _ (s := s.setPollIter 0) h

theorem poll_result (address : Addr) (expected : Byte) (s : State) :
    (poll address expected s).1 = (poll address expected s).2.pollObs := rfl

@[simp] theorem poll_poller (address : Addr) (expected : Byte) (s : State) :
    (poll address expected s).2.poller = .pIdle := rfl

/-! ### The protection sequences -/

/-- What a protection sequence never touches: what the Bus Driver and the runner's own registers leave
alone. -/
structure RunnerFrame {β : Type} (f : State → β) : Prop extends DriverFrame f where
  setSeqIdx : ∀ s i, f (State.setSeqIdx s i) = f s
  setRunner : ∀ s c, f (State.setRunner s c) = f s

theorem runSequence_frame {β : Type} {f : State → β} (h : RunnerFrame f) (i : BitVec 3)
    (ws : List (Addr × Byte)) (s : State) : f (runSequence i ws s) = f s := by
  induction ws generalizing i s with
  | nil => rfl
  | cons w ws ih => simp only [runSequence, ih, writeByte_frame h.toDriverFrame, h.setSeqIdx]

/-- A protection sequence appends one `WR` event per pair of its table, in order, and no other. -/
theorem runSequence_trace (i : BitVec 3) (ws : List (Addr × Byte)) (s : State) :
    (runSequence i ws s).trace = s.trace ++ ws.map (fun w => .wr (maskAddr w.1) w.2) := by
  induction ws generalizing i s with
  | nil => simp [runSequence]
  | cons w ws ih => simp [runSequence, ih, writeByte_state]

theorem runSequence_idle {i : BitVec 3} {ws : List (Addr × Byte)} {s : State} (h : s.bus.idle = true) :
    (runSequence i ws s).bus.idle = true := by
  induction ws generalizing i s with
  | nil => exact h
  | cons w ws ih => exact ih (writeByte_idle (s := s.setSeqIdx i) h)

theorem protEnable_frame {β : Type} {f : State → β} (h : RunnerFrame f) (s : State) :
    f (protEnable s) = f s := by
  simp only [protEnable, h.setRunner, runSequence_frame h]

theorem protDisable_frame {β : Type} {f : State → β} (h : RunnerFrame f) (s : State) :
    f (protDisable s) = f s := by
  simp only [protDisable, h.setRunner, runSequence_frame h]

/-! ### The guards -/

theorem whenQuiet_of_quiet {s : State} {t : Host.Outcome State Fault Refusal} (h : s.quiet = true) :
    whenQuiet s t = t := if_pos h

theorem whenQuiet_next {s t : State} {o : Host.Outcome State Fault Refusal}
    (h : whenQuiet s o = .next t) : s.quiet = true ∧ o = .next t := by
  unfold whenQuiet at h
  split at h
  · exact ⟨‹_›, h⟩
  · cases h

theorem whenBound_of_pos {s : State} {t : Host.Outcome State Fault Refusal} (h : 1 ≤ s.cfg.pollBound) :
    whenBound s t = t := if_neg (by omega)

theorem whenBound_next {s t : State} {o : Host.Outcome State Fault Refusal}
    (h : whenBound s o = .next t) : 1 ≤ s.cfg.pollBound ∧ o = .next t := by
  unfold whenBound at h
  split at h
  · cases h
  · exact ⟨by omega, h⟩

end Sys2Proof.Machine
end

