-- ==== Sys2Proof/Laws/Fields.lean ====
section
/-! SUPPORT. The fields the shared operations leave alone, one lemma per field, for simp. -/

namespace Sys2Proof.Machine

/-- A function of the state that does not look at what POLL writes is untouched by POLL. -/
theorem PollFrame.of_unread {β : Type} {f : State → β}
    (h : ∀ (s : State) bus pins tr dev n it ob ctl,
      f { s with
        bus := bus, pinTrace := pins, trace := tr, device := dev, draw := n, pollIter := it, pollObs := ob
        poller := ctl } = f s) : PollFrame f where
  drive s _ := h s _ _ s.trace s.device s.draw s.pollIter s.pollObs s.poller
  emitRead s _ _ := h s s.bus s.pinTrace _ _ _ s.pollIter s.pollObs s.poller
  emitWrite s _ _ := h s s.bus s.pinTrace _ _ s.draw s.pollIter s.pollObs s.poller
  setPollIter s n := h s s.bus s.pinTrace s.trace s.device s.draw n s.pollObs s.poller
  setPollObs s b := h s s.bus s.pinTrace s.trace s.device s.draw s.pollIter b s.poller
  setPoller s c := h s s.bus s.pinTrace s.trace s.device s.draw s.pollIter s.pollObs c

/-- A function of the state that does not look at what a protection sequence writes is untouched by it. -/
theorem RunnerFrame.of_unread {β : Type} {f : State → β}
    (h : ∀ (s : State) bus pins tr dev n i ctl,
      f { s with
        bus := bus, pinTrace := pins, trace := tr, device := dev, draw := n, seqIdx := i, runner := ctl } =
          f s) : RunnerFrame f where
  drive s _ := h s _ _ s.trace s.device s.draw s.seqIdx s.runner
  emitRead s _ _ := h s s.bus s.pinTrace _ _ _ s.seqIdx s.runner
  emitWrite s _ _ := h s s.bus s.pinTrace _ _ s.draw s.seqIdx s.runner
  setSeqIdx s i := h s s.bus s.pinTrace s.trace s.device s.draw i s.runner
  setRunner s c := h s s.bus s.pinTrace s.trace s.device s.draw s.seqIdx c

variable (a : Addr) (v : Byte) (s : State)

/-! ### READ_BYTE -/

@[simp] theorem readByte_cfg : (readByte a s).2.cfg = s.cfg := by rw [readByte_state]
@[simp] theorem readByte_pstate : (readByte a s).2.pstate = s.pstate := by rw [readByte_state]
@[simp] theorem readByte_cmdOp : (readByte a s).2.cmdOp = s.cmdOp := by rw [readByte_state]
@[simp] theorem readByte_cmdAddr : (readByte a s).2.cmdAddr = s.cmdAddr := by rw [readByte_state]
@[simp] theorem readByte_inq : (readByte a s).2.inq = s.inq := by rw [readByte_state]
@[simp] theorem readByte_outq : (readByte a s).2.outq = s.outq := by rw [readByte_state]
@[simp] theorem readByte_pollIter : (readByte a s).2.pollIter = s.pollIter := by rw [readByte_state]
@[simp] theorem readByte_pollObs : (readByte a s).2.pollObs = s.pollObs := by rw [readByte_state]
@[simp] theorem readByte_seqIdx : (readByte a s).2.seqIdx = s.seqIdx := by rw [readByte_state]
@[simp] theorem readByte_poller : (readByte a s).2.poller = s.poller := by rw [readByte_state]
@[simp] theorem readByte_runner : (readByte a s).2.runner = s.runner := by rw [readByte_state]
@[simp] theorem readByte_opResult : (readByte a s).2.opResult = s.opResult := by rw [readByte_state]
@[simp] theorem readByte_hostStream : (readByte a s).2.hostStream = s.hostStream := by rw [readByte_state]
@[simp] theorem readByte_hostReceived : (readByte a s).2.hostReceived = s.hostReceived := by rw [readByte_state]
@[simp] theorem readByte_agenda : (readByte a s).2.agenda = s.agenda := by rw [readByte_state]
@[simp] theorem readByte_trace :
    (readByte a s).2.trace = s.trace ++ [.rd (maskAddr a) (s.answer (maskAddr a))] := by rw [readByte_state]
@[simp] theorem readByte_device : (readByte a s).2.device = s.device.afterRead := by rw [readByte_state]
@[simp] theorem readByte_draw : (readByte a s).2.draw = s.draw + 1 := by rw [readByte_state]

/-! ### WRITE_BYTE -/

@[simp] theorem writeByte_cfg : (writeByte a v s).cfg = s.cfg := by rw [writeByte_state]
@[simp] theorem writeByte_pstate : (writeByte a v s).pstate = s.pstate := by rw [writeByte_state]
@[simp] theorem writeByte_cmdOp : (writeByte a v s).cmdOp = s.cmdOp := by rw [writeByte_state]
@[simp] theorem writeByte_cmdAddr : (writeByte a v s).cmdAddr = s.cmdAddr := by rw [writeByte_state]
@[simp] theorem writeByte_inq : (writeByte a v s).inq = s.inq := by rw [writeByte_state]
@[simp] theorem writeByte_outq : (writeByte a v s).outq = s.outq := by rw [writeByte_state]
@[simp] theorem writeByte_pollIter : (writeByte a v s).pollIter = s.pollIter := by rw [writeByte_state]
@[simp] theorem writeByte_pollObs : (writeByte a v s).pollObs = s.pollObs := by rw [writeByte_state]
@[simp] theorem writeByte_seqIdx : (writeByte a v s).seqIdx = s.seqIdx := by rw [writeByte_state]
@[simp] theorem writeByte_poller : (writeByte a v s).poller = s.poller := by rw [writeByte_state]
@[simp] theorem writeByte_runner : (writeByte a v s).runner = s.runner := by rw [writeByte_state]
@[simp] theorem writeByte_opResult : (writeByte a v s).opResult = s.opResult := by rw [writeByte_state]
@[simp] theorem writeByte_draw : (writeByte a v s).draw = s.draw := by rw [writeByte_state]
@[simp] theorem writeByte_hostStream : (writeByte a v s).hostStream = s.hostStream := by rw [writeByte_state]
@[simp] theorem writeByte_hostReceived : (writeByte a v s).hostReceived = s.hostReceived := by rw [writeByte_state]
@[simp] theorem writeByte_agenda : (writeByte a v s).agenda = s.agenda := by rw [writeByte_state]
@[simp] theorem writeByte_trace : (writeByte a v s).trace = s.trace ++ [.wr (maskAddr a) v] := by
  rw [writeByte_state]
@[simp] theorem writeByte_device : (writeByte a v s).device = s.device.afterWrite (maskAddr a) v := by
  rw [writeByte_state]

/-! ### One read of POLL, and POLL -/

@[simp] theorem pollRead_cfg : (pollRead a s).cfg = s.cfg :=
  pollRead_frame (f := State.cfg) (.of_unread fun _ _ _ _ _ _ _ _ _ => rfl) a s
@[simp] theorem pollRead_pstate : (pollRead a s).pstate = s.pstate :=
  pollRead_frame (f := State.pstate) (.of_unread fun _ _ _ _ _ _ _ _ _ => rfl) a s
@[simp] theorem pollRead_cmdOp : (pollRead a s).cmdOp = s.cmdOp :=
  pollRead_frame (f := State.cmdOp) (.of_unread fun _ _ _ _ _ _ _ _ _ => rfl) a s
@[simp] theorem pollRead_cmdAddr : (pollRead a s).cmdAddr = s.cmdAddr :=
  pollRead_frame (f := State.cmdAddr) (.of_unread fun _ _ _ _ _ _ _ _ _ => rfl) a s
@[simp] theorem pollRead_inq : (pollRead a s).inq = s.inq :=
  pollRead_frame (f := State.inq) (.of_unread fun _ _ _ _ _ _ _ _ _ => rfl) a s
@[simp] theorem pollRead_outq : (pollRead a s).outq = s.outq :=
  pollRead_frame (f := State.outq) (.of_unread fun _ _ _ _ _ _ _ _ _ => rfl) a s
@[simp] theorem pollRead_seqIdx : (pollRead a s).seqIdx = s.seqIdx :=
  pollRead_frame (f := State.seqIdx) (.of_unread fun _ _ _ _ _ _ _ _ _ => rfl) a s
@[simp] theorem pollRead_runner : (pollRead a s).runner = s.runner :=
  pollRead_frame (f := State.runner) (.of_unread fun _ _ _ _ _ _ _ _ _ => rfl) a s
@[simp] theorem pollRead_opResult : (pollRead a s).opResult = s.opResult :=
  pollRead_frame (f := State.opResult) (.of_unread fun _ _ _ _ _ _ _ _ _ => rfl) a s
@[simp] theorem pollRead_hostStream : (pollRead a s).hostStream = s.hostStream :=
  pollRead_frame (f := State.hostStream) (.of_unread fun _ _ _ _ _ _ _ _ _ => rfl) a s
@[simp] theorem pollRead_hostReceived : (pollRead a s).hostReceived = s.hostReceived :=
  pollRead_frame (f := State.hostReceived) (.of_unread fun _ _ _ _ _ _ _ _ _ => rfl) a s
@[simp] theorem pollRead_agenda : (pollRead a s).agenda = s.agenda :=
  pollRead_frame (f := State.agenda) (.of_unread fun _ _ _ _ _ _ _ _ _ => rfl) a s

@[simp] theorem poll_cfg : (poll a v s).2.cfg = s.cfg :=
  poll_frame (f := State.cfg) (.of_unread fun _ _ _ _ _ _ _ _ _ => rfl) a v s
@[simp] theorem poll_pstate : (poll a v s).2.pstate = s.pstate :=
  poll_frame (f := State.pstate) (.of_unread fun _ _ _ _ _ _ _ _ _ => rfl) a v s
@[simp] theorem poll_cmdOp : (poll a v s).2.cmdOp = s.cmdOp :=
  poll_frame (f := State.cmdOp) (.of_unread fun _ _ _ _ _ _ _ _ _ => rfl) a v s
@[simp] theorem poll_cmdAddr : (poll a v s).2.cmdAddr = s.cmdAddr :=
  poll_frame (f := State.cmdAddr) (.of_unread fun _ _ _ _ _ _ _ _ _ => rfl) a v s
@[simp] theorem poll_inq : (poll a v s).2.inq = s.inq :=
  poll_frame (f := State.inq) (.of_unread fun _ _ _ _ _ _ _ _ _ => rfl) a v s
@[simp] theorem poll_outq : (poll a v s).2.outq = s.outq :=
  poll_frame (f := State.outq) (.of_unread fun _ _ _ _ _ _ _ _ _ => rfl) a v s
@[simp] theorem poll_seqIdx : (poll a v s).2.seqIdx = s.seqIdx :=
  poll_frame (f := State.seqIdx) (.of_unread fun _ _ _ _ _ _ _ _ _ => rfl) a v s
@[simp] theorem poll_runner : (poll a v s).2.runner = s.runner :=
  poll_frame (f := State.runner) (.of_unread fun _ _ _ _ _ _ _ _ _ => rfl) a v s
@[simp] theorem poll_opResult : (poll a v s).2.opResult = s.opResult :=
  poll_frame (f := State.opResult) (.of_unread fun _ _ _ _ _ _ _ _ _ => rfl) a v s
@[simp] theorem poll_hostStream : (poll a v s).2.hostStream = s.hostStream :=
  poll_frame (f := State.hostStream) (.of_unread fun _ _ _ _ _ _ _ _ _ => rfl) a v s
@[simp] theorem poll_hostReceived : (poll a v s).2.hostReceived = s.hostReceived :=
  poll_frame (f := State.hostReceived) (.of_unread fun _ _ _ _ _ _ _ _ _ => rfl) a v s
@[simp] theorem poll_agenda : (poll a v s).2.agenda = s.agenda :=
  poll_frame (f := State.agenda) (.of_unread fun _ _ _ _ _ _ _ _ _ => rfl) a v s

/-! ### PROT_ENABLE -/

@[simp] theorem protEnable_cfg : (protEnable s).cfg = s.cfg :=
  protEnable_frame (f := State.cfg) (.of_unread fun _ _ _ _ _ _ _ _ => rfl) s
@[simp] theorem protEnable_pstate : (protEnable s).pstate = s.pstate :=
  protEnable_frame (f := State.pstate) (.of_unread fun _ _ _ _ _ _ _ _ => rfl) s
@[simp] theorem protEnable_cmdOp : (protEnable s).cmdOp = s.cmdOp :=
  protEnable_frame (f := State.cmdOp) (.of_unread fun _ _ _ _ _ _ _ _ => rfl) s
@[simp] theorem protEnable_cmdAddr : (protEnable s).cmdAddr = s.cmdAddr :=
  protEnable_frame (f := State.cmdAddr) (.of_unread fun _ _ _ _ _ _ _ _ => rfl) s
@[simp] theorem protEnable_inq : (protEnable s).inq = s.inq :=
  protEnable_frame (f := State.inq) (.of_unread fun _ _ _ _ _ _ _ _ => rfl) s
@[simp] theorem protEnable_outq : (protEnable s).outq = s.outq :=
  protEnable_frame (f := State.outq) (.of_unread fun _ _ _ _ _ _ _ _ => rfl) s
@[simp] theorem protEnable_pollIter : (protEnable s).pollIter = s.pollIter :=
  protEnable_frame (f := State.pollIter) (.of_unread fun _ _ _ _ _ _ _ _ => rfl) s
@[simp] theorem protEnable_pollObs : (protEnable s).pollObs = s.pollObs :=
  protEnable_frame (f := State.pollObs) (.of_unread fun _ _ _ _ _ _ _ _ => rfl) s
@[simp] theorem protEnable_poller : (protEnable s).poller = s.poller :=
  protEnable_frame (f := State.poller) (.of_unread fun _ _ _ _ _ _ _ _ => rfl) s
@[simp] theorem protEnable_opResult : (protEnable s).opResult = s.opResult :=
  protEnable_frame (f := State.opResult) (.of_unread fun _ _ _ _ _ _ _ _ => rfl) s
@[simp] theorem protEnable_hostStream : (protEnable s).hostStream = s.hostStream :=
  protEnable_frame (f := State.hostStream) (.of_unread fun _ _ _ _ _ _ _ _ => rfl) s
@[simp] theorem protEnable_hostReceived : (protEnable s).hostReceived = s.hostReceived :=
  protEnable_frame (f := State.hostReceived) (.of_unread fun _ _ _ _ _ _ _ _ => rfl) s
@[simp] theorem protEnable_agenda : (protEnable s).agenda = s.agenda :=
  protEnable_frame (f := State.agenda) (.of_unread fun _ _ _ _ _ _ _ _ => rfl) s
@[simp] theorem protEnable_runner : (protEnable s).runner = .sIdle := rfl

/-! ### PROT_DISABLE -/

@[simp] theorem protDisable_cfg : (protDisable s).cfg = s.cfg :=
  protDisable_frame (f := State.cfg) (.of_unread fun _ _ _ _ _ _ _ _ => rfl) s
@[simp] theorem protDisable_pstate : (protDisable s).pstate = s.pstate :=
  protDisable_frame (f := State.pstate) (.of_unread fun _ _ _ _ _ _ _ _ => rfl) s
@[simp] theorem protDisable_cmdOp : (protDisable s).cmdOp = s.cmdOp :=
  protDisable_frame (f := State.cmdOp) (.of_unread fun _ _ _ _ _ _ _ _ => rfl) s
@[simp] theorem protDisable_cmdAddr : (protDisable s).cmdAddr = s.cmdAddr :=
  protDisable_frame (f := State.cmdAddr) (.of_unread fun _ _ _ _ _ _ _ _ => rfl) s
@[simp] theorem protDisable_inq : (protDisable s).inq = s.inq :=
  protDisable_frame (f := State.inq) (.of_unread fun _ _ _ _ _ _ _ _ => rfl) s
@[simp] theorem protDisable_outq : (protDisable s).outq = s.outq :=
  protDisable_frame (f := State.outq) (.of_unread fun _ _ _ _ _ _ _ _ => rfl) s
@[simp] theorem protDisable_pollIter : (protDisable s).pollIter = s.pollIter :=
  protDisable_frame (f := State.pollIter) (.of_unread fun _ _ _ _ _ _ _ _ => rfl) s
@[simp] theorem protDisable_pollObs : (protDisable s).pollObs = s.pollObs :=
  protDisable_frame (f := State.pollObs) (.of_unread fun _ _ _ _ _ _ _ _ => rfl) s
@[simp] theorem protDisable_poller : (protDisable s).poller = s.poller :=
  protDisable_frame (f := State.poller) (.of_unread fun _ _ _ _ _ _ _ _ => rfl) s
@[simp] theorem protDisable_opResult : (protDisable s).opResult = s.opResult :=
  protDisable_frame (f := State.opResult) (.of_unread fun _ _ _ _ _ _ _ _ => rfl) s
@[simp] theorem protDisable_hostStream : (protDisable s).hostStream = s.hostStream :=
  protDisable_frame (f := State.hostStream) (.of_unread fun _ _ _ _ _ _ _ _ => rfl) s
@[simp] theorem protDisable_hostReceived : (protDisable s).hostReceived = s.hostReceived :=
  protDisable_frame (f := State.hostReceived) (.of_unread fun _ _ _ _ _ _ _ _ => rfl) s
@[simp] theorem protDisable_agenda : (protDisable s).agenda = s.agenda :=
  protDisable_frame (f := State.agenda) (.of_unread fun _ _ _ _ _ _ _ _ => rfl) s
@[simp] theorem protDisable_runner : (protDisable s).runner = .sIdle := rfl

end Sys2Proof.Machine
end

