-- ==== Sys2Proof/Laws/Step.lean ====
section
/-! SUPPORT. Inversion: everything a fetch, an instruction and a step can do, said once. -/

namespace Sys2Proof.Machine

/-! ### Fetching -/

/-- The six things the byte-taking part of an invocation can do (43_commands.md R141 to R148). -/
inductive FetchCase (s : State) : State × Option Instr → Prop
  /-- The gate of phase A fails: no byte is taken. -/
  | noByte (h : s.gateA = false) : FetchCase s (s, s.pending)
  /-- The byte is the command `e`. -/
  | protOn (b : Byte) (rest : List Byte) (hq : s.inq = b :: rest) (ho : s.outqFull = false)
      (hp : s.pstate = .awaitOpcode) (hb : opcodeClass b = .protOn) :
      FetchCase s ((s.setInq rest).setCmdOp b, some .e)
  /-- The byte is the command `d`. -/
  | protOff (b : Byte) (rest : List Byte) (hq : s.inq = b :: rest) (ho : s.outqFull = false)
      (hp : s.pstate = .awaitOpcode) (hb : opcodeClass b = .protOff) :
      FetchCase s ((s.setInq rest).setCmdOp b, some .d)
  /-- The byte is any other opcode. -/
  | opcode (b : Byte) (rest : List Byte) (hq : s.inq = b :: rest) (ho : s.outqFull = false)
      (hp : s.pstate = .awaitOpcode) (h₁ : opcodeClass b ≠ .protOn) (h₂ : opcodeClass b ≠ .protOff) :
      FetchCase s (((s.setInq rest).setCmdOp b).setPstate .awaitAddressHigh, none)
  /-- The byte is a high address byte. -/
  | highByte (b : Byte) (rest : List Byte) (hq : s.inq = b :: rest) (ho : s.outqFull = false)
      (hp : s.pstate = .awaitAddressHigh) :
      FetchCase s (((s.setInq rest).setCmdAddr (storeHigh b)).setPstate .awaitAddressLow, none)
  /-- The byte is a low address byte; phase B then looks at what it completed. -/
  | lowByte (b : Byte) (rest : List Byte) (hq : s.inq = b :: rest) (ho : s.outqFull = false)
      (hp : s.pstate = .awaitAddressLow) :
      FetchCase s (((s.setInq rest).setCmdAddr (orLow s.cmdAddr b)).setPstate .execute,
        decodePending s.cmdOp (orLow s.cmdAddr b) rest.head?)

theorem gateA_eq_true (s : State) :
    s.gateA = true ↔ s.pstate ≠ .execute ∧ s.inq ≠ [] ∧ s.outqFull = false := by
  simp [State.gateA, and_assoc]

theorem phaseA_closed {s : State} (h : s.gateA = false) : phaseA s = (s, none) := by
  unfold phaseA
  split
  · rfl
  · simp [h]

theorem phaseA_open {s : State} {b : Byte} {rest : List Byte} (hq : s.inq = b :: rest)
    (h : s.gateA = true) : phaseA s = takeByte b (s.setInq rest) := by
  simp [phaseA, hq, h]

theorem fetch_case (s : State) : FetchCase s (fetch s) := by
  rcases hg : s.gateA with _ | _
  · have hf : fetch s = (s, s.pending) := by simp [fetch, phaseA_closed hg]
    rw [hf]
    exact .noByte hg
  · obtain ⟨hne, hq, ho⟩ := (gateA_eq_true s).mp hg
    obtain ⟨b, rest, hq⟩ := List.exists_cons_of_ne_nil hq
    rcases hp : s.pstate with _ | _ | _ | _
    · rcases hb : opcodeClass b with _ | _ | _ | _ | _
      case protOn =>
        have hf : fetch s = ((s.setInq rest).setCmdOp b, some .e) := by
          simp [fetch, phaseA_open hq hg, takeByte, hp, hb]
        rw [hf]
        exact .protOn b rest hq ho hp hb
      case protOff =>
        have hf : fetch s = ((s.setInq rest).setCmdOp b, some .d) := by
          simp [fetch, phaseA_open hq hg, takeByte, hp, hb]
        rw [hf]
        exact .protOff b rest hq ho hp hb
      all_goals
        have hf : fetch s = (((s.setInq rest).setCmdOp b).setPstate .awaitAddressHigh, none) := by
          simp [fetch, phaseA_open hq hg, takeByte, hp, hb, State.pending]
        rw [hf]
        exact .opcode b rest hq ho hp (by simp [hb]) (by simp [hb])
    · have hf : fetch s =
          (((s.setInq rest).setCmdAddr (storeHigh b)).setPstate .awaitAddressLow, none) := by
        simp [fetch, phaseA_open hq hg, takeByte, hp, State.pending]
      rw [hf]
      exact .highByte b rest hq ho hp
    · have hf : fetch s = (((s.setInq rest).setCmdAddr (orLow s.cmdAddr b)).setPstate .execute,
          decodePending s.cmdOp (orLow s.cmdAddr b) rest.head?) := by
        simp [fetch, phaseA_open hq hg, takeByte, hp, State.pending]
      rw [hf]
      exact .lowByte b rest hq ho hp
    · exact absurd hp hne

/-! ### Instructions -/

/-- What an instruction does when it answers a next state: it stalls, or it runs on a quiet machine. -/
inductive ExecCase (s : State) : Instr → State → Prop
  | rStall (a : Addr) (h : s.outqFull = true) : ExecCase s (.r a) s
  | r (a : Addr) (ho : s.outqFull = false) (hq : s.quiet = true) :
      ExecCase s (.r a) ((readByte a s).2.reply (readByte a s).1)
  | wStall (a : Addr) (v : Byte) (h : s.inq = [] ∨ s.outqFull = true) : ExecCase s (.w a v) s
  | w (a : Addr) (v front : Byte) (rest : List Byte) (hi : s.inq = front :: rest) (ho : s.outqFull = false)
      (hq : s.quiet = true) (hb : 1 ≤ s.cfg.pollBound) :
      ExecCase s (.w a v) (writePollRead a v (s.setInq rest))
  | e (ho : s.outqFull = false) (hq : s.quiet = true) : ExecCase s .e ((protEnable s).reply ackProtOn)
  | d (ho : s.outqFull = false) (hq : s.quiet = true) : ExecCase s .d ((protDisable s).reply ackProtOff)
  | unk (b : Byte) (a : Addr) : ExecCase s (.unk b a) s
  | readByte (a : Addr) (hq : s.quiet = true) :
      ExecCase s (.readByte a) ((readByte a s).2.setOpResult (readByte a s).1)
  | writeByte (a : Addr) (v : Byte) (hq : s.quiet = true) : ExecCase s (.writeByte a v) (writeByte a v s)
  | poll (a : Addr) (x : Byte) (hq : s.quiet = true) (hb : 1 ≤ s.cfg.pollBound) :
      ExecCase s (.poll a x) ((poll a x s).2.setOpResult (poll a x s).1)
  | protEnable (hq : s.quiet = true) : ExecCase s .protEnable (protEnable s)
  | protDisable (hq : s.quiet = true) : ExecCase s .protDisable (protDisable s)

theorem exec_case {i : Instr} {s t : State} (h : exec i s = .next t) : ExecCase s i t := by
  cases i with
  | r a =>
    simp only [exec, execR, stall] at h
    split at h
    · cases h; exact .rStall a ‹_›
    · obtain ⟨hq, h⟩ := whenQuiet_next h
      cases h; exact .r a (by simpa using ‹¬s.outqFull = true›) hq
  | w a v =>
    simp only [exec, execW, stall] at h
    split at h
    · cases h; exact .wStall a v (.inl ‹_›)
    · split at h
      · cases h; exact .wStall a v (.inr ‹_›)
      · obtain ⟨hq, h⟩ := whenQuiet_next h
        obtain ⟨hb, h⟩ := whenBound_next h
        cases h; exact .w a v _ _ ‹_› (by simpa using ‹¬s.outqFull = true›) hq hb
  | e =>
    simp only [exec, execE] at h
    split at h
    · cases h
    · obtain ⟨hq, h⟩ := whenQuiet_next h
      cases h; exact .e (by simpa using ‹¬s.outqFull = true›) hq
  | d =>
    simp only [exec, execD] at h
    split at h
    · cases h
    · obtain ⟨hq, h⟩ := whenQuiet_next h
      cases h; exact .d (by simpa using ‹¬s.outqFull = true›) hq
  | unk b a => cases h; exact .unk b a
  | readByte a =>
    obtain ⟨hq, h⟩ := whenQuiet_next h
    cases h; exact .readByte a hq
  | writeByte a v =>
    obtain ⟨hq, h⟩ := whenQuiet_next h
    cases h; exact .writeByte a v hq
  | poll a x =>
    obtain ⟨hq, h⟩ := whenQuiet_next h
    obtain ⟨hb, h⟩ := whenBound_next h
    cases h; exact .poll a x hq hb
  | protEnable =>
    obtain ⟨hq, h⟩ := whenQuiet_next h
    cases h; exact .protEnable hq
  | protDisable =>
    obtain ⟨hq, h⟩ := whenQuiet_next h
    cases h; exact .protDisable hq

/-- The block raises no fault (60_exceptions.md R170): there is no reason to give for one. -/
theorem step_no_fault (s : State) (f : Fault) : step s ≠ .fault f := nomatch f

/-! ### Steps -/

theorem step_of_nil {s : State} (hc : s.cfg.wf = true) (h : s.agenda = []) : step s = advance s := by
  simp [step, hc, h]

theorem step_of_cons {s : State} {ev : Event} {es : List Event} (hc : s.cfg.wf = true)
    (h : s.agenda = ev :: es) : step s = runEvent ev (s.setAgenda es) := by
  simp [step, hc, h]

/-- A step that answers a next state ran in a legal configuration: an invocation, or the event at the head of
the agenda. -/
theorem step_next {s t : State} (h : step s = .next t) :
    s.cfg.wf = true ∧
      ((s.agenda = [] ∧ advance s = .next t) ∨
        ∃ ev es, s.agenda = ev :: es ∧ runEvent ev (s.setAgenda es) = .next t) := by
  unfold step at h
  split at h
  · refine ⟨‹_›, ?_⟩
    split at h
    · exact .inl ⟨‹_›, h⟩
    · exact .inr ⟨_, _, ‹_›, h⟩
  · cases h

/-- An invocation that answers a next state fetched and stopped, or fetched a command and ran it. -/
theorem advance_next {s t : State} (h : advance s = .next t) :
    fetch s = (t, none) ∨ ∃ u i, fetch s = (u, some i) ∧ exec i u = .next t := by
  unfold advance at h
  split at h
  · exact .inr ⟨_, _, ‹_›, h⟩
  · cases h; exact .inl ‹_›

/-- A reset that cut work short, or came after it: the end state is a power-on from the bus of the `k`-th
level the work presents, or of the finished work where it presents no more than `k`. -/
theorem cutShort_next {k : Nat} {s t : State} {o : Host.Outcome State Fault Refusal}
    (h : cutShort k s o = .next t) :
    ∃ u, o = .next u ∧
      ((∃ b, (u.pinTrace.drop s.pinTrace.length)[k]? = some b ∧
          t = powerOn { s with bus := b, device := .oracle, draw := u.draw }) ∨
        ((u.pinTrace.drop s.pinTrace.length)[k]? = none ∧ t = powerOn u)) := by
  cases o with
  | next u =>
    refine ⟨u, rfl, ?_⟩
    simp only [cutShort] at h
    split at h <;> cases h
    · exact .inl ⟨_, ‹_›, rfl⟩
    · exact .inr ⟨‹_›, rfl⟩
  | fault f => cases h
  | refused r => cases h

/-- A level that cut work presents is one of its record, so what holds of every level recorded holds of it. -/
theorem mem_of_level {u : State} {n k : Nat} {b : Bus} (h : (u.pinTrace.drop n)[k]? = some b) :
    b ∈ u.pinTrace :=
  List.mem_of_mem_drop (List.mem_of_getElem? h)

/-- A run of any machine goes on from the state its first step answers. -/
theorem core_run_of_next (M : Host.Core) {n : Nat} {s t : M.State} (h : M.step s = .next t) :
    M.run (n + 1) s = M.run n t := by
  simp only [Host.Core.run, h]

/-- A run of at least one step that answers a next state began with a step that did. -/
theorem core_run_next (M : Host.Core) {n : Nat} {s u : M.State} (h : M.run (n + 1) s = .next u) :
    ∃ t, M.step s = .next t ∧ M.run n t = .next u := by
  simp only [Host.Core.run] at h
  split at h
  · exact ⟨_, ‹_›, h⟩
  · cases h
  · cases h

theorem run_succ_of_next {n : Nat} {s t : State} (h : step s = .next t) :
    Host.Core.run Sys2Proof.core (n + 1) s = Host.Core.run Sys2Proof.core n t :=
  core_run_of_next Sys2Proof.core h

theorem run_succ_next {n : Nat} {s u : State} (h : Host.Core.run Sys2Proof.core (n + 1) s = .next u) :
    ∃ t, step s = .next t ∧ Host.Core.run Sys2Proof.core n t = .next u :=
  core_run_next Sys2Proof.core h

end Sys2Proof.Machine
end

