-- ==== Sys2Proof/Laws/Invocation.lean ====
section
/-! SUPPORT. What a fetch gives in each protocol state, and inversion of a whole invocation: everything
`advance` can do, said once (43_commands.md R155). -/

namespace Sys2Proof.Machine

/-! ### Fetching, state by state -/

theorem gateA_open {s : State} {b : Byte} {rest : List Byte} (hp : s.pstate ≠ .execute)
    (hq : s.inq = b :: rest) (ho : s.outqFull = false) : s.gateA = true :=
  (gateA_eq_true s).mpr ⟨hp, by simp [hq], ho⟩

theorem decodePending_read (a : Addr) (front : Option Byte) : decodePending opcRead a front = some (.r a) :=
  rfl

theorem decodePending_write (a : Addr) (front : Option Byte) :
    decodePending opcWrite a front = front.map (.w a) := rfl

/-- Any other opcode in Execute is `unk`, or no command at all. -/
theorem decodePending_other {op : Byte} (h₁ : op ≠ opcRead) (h₂ : op ≠ opcWrite) (a : Addr)
    (front : Option Byte) :
    decodePending op a front = none ∨ decodePending op a front = some (.unk op a) := by
  simp only [decodePending]
  rcases opcodeClass_cases op with ⟨_, c⟩ | ⟨_, c⟩ | ⟨h, _⟩ | ⟨h, _⟩ | ⟨_, _, _, _, c⟩
  · exact .inl (by rw [c])
  · exact .inl (by rw [c])
  · exact absurd h h₁
  · exact absurd h h₂
  · exact .inr (by rw [c])

theorem fetch_closed {s : State} (hg : s.gateA = false) : fetch s = (s, s.pending) := by
  simp [fetch, phaseA_closed hg]

theorem fetch_execute {s : State} (hp : s.pstate = .execute) :
    fetch s = (s, decodePending s.cmdOp s.cmdAddr s.inq.head?) := by
  rw [fetch_closed (by simp [State.gateA, hp]), State.pending, if_pos hp]

theorem fetch_protOn {s : State} {rest : List Byte} (hp : s.pstate = .awaitOpcode)
    (hq : s.inq = opcProtOn :: rest) (ho : s.outqFull = false) :
    fetch s = ((s.setInq rest).setCmdOp opcProtOn, some .e) := by
  simp [fetch, phaseA_open hq (gateA_open (by simp [hp]) hq ho), takeByte, hp,
    show opcodeClass opcProtOn = .protOn from rfl]

theorem fetch_protOff {s : State} {rest : List Byte} (hp : s.pstate = .awaitOpcode)
    (hq : s.inq = opcProtOff :: rest) (ho : s.outqFull = false) :
    fetch s = ((s.setInq rest).setCmdOp opcProtOff, some .d) := by
  simp [fetch, phaseA_open hq (gateA_open (by simp [hp]) hq ho), takeByte, hp,
    show opcodeClass opcProtOff = .protOff from rfl]

theorem fetch_opcode {s : State} {b : Byte} {rest : List Byte} (hp : s.pstate = .awaitOpcode)
    (hq : s.inq = b :: rest) (ho : s.outqFull = false) (h₁ : b ≠ opcProtOn) (h₂ : b ≠ opcProtOff) :
    fetch s = (((s.setInq rest).setCmdOp b).setPstate .awaitAddressHigh, none) := by
  have hg := gateA_open (by simp [hp]) hq ho
  rcases opcodeClass_cases b with ⟨h, _⟩ | ⟨h, _⟩ | ⟨_, c⟩ | ⟨_, c⟩ | ⟨_, _, _, _, c⟩
  · exact absurd h h₁
  · exact absurd h h₂
  all_goals simp [fetch, phaseA_open hq hg, takeByte, hp, c, State.pending]

theorem fetch_highByte {s : State} {b : Byte} {rest : List Byte} (hp : s.pstate = .awaitAddressHigh)
    (hq : s.inq = b :: rest) (ho : s.outqFull = false) :
    fetch s = (((s.setInq rest).setCmdAddr (storeHigh b)).setPstate .awaitAddressLow, none) := by
  simp [fetch, phaseA_open hq (gateA_open (by simp [hp]) hq ho), takeByte, hp, State.pending]

/-- The state after a low address byte is taken (43_commands.md R147). -/
abbrev State.takenLow (s : State) (b : Byte) (rest : List Byte) : State :=
  ((s.setInq rest).setCmdAddr (orLow s.cmdAddr b)).setPstate .execute

theorem fetch_lowByte {s : State} {b : Byte} {rest : List Byte} (hp : s.pstate = .awaitAddressLow)
    (hq : s.inq = b :: rest) (ho : s.outqFull = false) :
    fetch s = (s.takenLow b rest, decodePending s.cmdOp (orLow s.cmdAddr b) rest.head?) := by
  simp [fetch, phaseA_open hq (gateA_open (by simp [hp]) hq ho), takeByte, hp, State.pending]

/-! ### Instructions: the control state -/

/-- What an instruction does to the registers that control the sequencer. -/
theorem exec_control {i : Instr} {s t : State} (h : exec i s = .next t) :
    (t.pstate = .awaitOpcode ∨ t.pstate = s.pstate) ∧ t.cmdOp = s.cmdOp ∧ t.cmdAddr = s.cmdAddr := by
  cases exec_case h with
  | w => exact ⟨.inl rfl, by simp [writePollRead], by simp [writePollRead]⟩
  | r => exact ⟨.inl rfl, by simp, by simp⟩
  | e => exact ⟨.inl rfl, by simp, by simp⟩
  | d => exact ⟨.inl rfl, by simp, by simp⟩
  | poll => exact ⟨.inr (by simp), by simp, by simp⟩
  | readByte => exact ⟨.inr (by simp), by simp, by simp⟩
  | writeByte => exact ⟨.inr (by simp), by simp, by simp⟩
  | protEnable => exact ⟨.inr (by simp), by simp, by simp⟩
  | protDisable => exact ⟨.inr (by simp), by simp, by simp⟩
  | _ => exact ⟨.inr rfl, rfl, rfl⟩

/-- Only `w` takes a byte from `INQ` itself: its data byte. -/
theorem exec_inq {i : Instr} {s t : State} (h : exec i s = .next t) :
    t.inq = s.inq ∨ ∃ a v b, i = .w a v ∧ s.inq = b :: t.inq := by
  cases exec_case h with
  | w a v b rest hi => exact .inr ⟨a, v, b, rfl, by simp [hi, writePollRead]⟩
  | _ => left; simp

/-! ### An invocation -/

/-- Where phase B finds its command: the state of Execute it starts from, and the byte taken before it in the
same invocation, if any. -/
inductive PhaseBFrom (s : State) : State → Prop
  /-- The invocation began in Execute; phase A did nothing. -/
  | pending (hp : s.pstate = .execute) : PhaseBFrom s s
  /-- Phase A took the low address byte. -/
  | taken (b : Byte) (rest : List Byte) (hp : s.pstate = .awaitAddressLow) (hq : s.inq = b :: rest) :
      PhaseBFrom s (s.takenLow b rest)

/-- Everything an invocation that answers a next state can have done. -/
inductive AdvanceCase (s : State) : State → Prop
  | stall (hg : s.gateA = false) : AdvanceCase s s
  | opcode (b : Byte) (rest : List Byte) (hp : s.pstate = .awaitOpcode) (hq : s.inq = b :: rest)
      (ho : s.outqFull = false) (h₁ : b ≠ opcProtOn) (h₂ : b ≠ opcProtOff) :
      AdvanceCase s (((s.setInq rest).setCmdOp b).setPstate .awaitAddressHigh)
  | highByte (b : Byte) (rest : List Byte) (hp : s.pstate = .awaitAddressHigh) (hq : s.inq = b :: rest)
      (ho : s.outqFull = false) :
      AdvanceCase s (((s.setInq rest).setCmdAddr (storeHigh b)).setPstate .awaitAddressLow)
  | lowByte (b : Byte) (rest : List Byte) (hp : s.pstate = .awaitAddressLow) (hq : s.inq = b :: rest)
      (ho : s.outqFull = false) : AdvanceCase s (s.takenLow b rest)
  | protOn (rest : List Byte) (hp : s.pstate = .awaitOpcode) (hq : s.inq = opcProtOn :: rest)
      (ho : s.outqFull = false) (hu : s.quiet = true) :
      AdvanceCase s ((protEnable ((s.setInq rest).setCmdOp opcProtOn)).reply ackProtOn)
  | protOff (rest : List Byte) (hp : s.pstate = .awaitOpcode) (hq : s.inq = opcProtOff :: rest)
      (ho : s.outqFull = false) (hu : s.quiet = true) :
      AdvanceCase s ((protDisable ((s.setInq rest).setCmdOp opcProtOff)).reply ackProtOff)
  | read (u : State) (hf : PhaseBFrom s u) (hop : s.cmdOp = opcRead) (ho : s.outqFull = false)
      (hu : s.quiet = true) :
      AdvanceCase s ((readByte u.cmdAddr u).2.reply (readByte u.cmdAddr u).1)
  | write (u : State) (data : Byte) (rest : List Byte) (hf : PhaseBFrom s u) (hop : s.cmdOp = opcWrite)
      (hd : u.inq = data :: rest) (ho : s.outqFull = false) (hu : s.quiet = true)
      (hb : 1 ≤ s.cfg.pollBound) : AdvanceCase s (writePollRead u.cmdAddr data (u.setInq rest))

theorem phaseB_case {s u t : State} {i : Instr} (hf : PhaseBFrom s u)
    (hi : decodePending s.cmdOp u.cmdAddr u.inq.head? = some i) (h : exec i u = .next t) :
    t = u ∨ AdvanceCase s t := by
  have same : u.outqFull = s.outqFull ∧ u.quiet = s.quiet ∧ u.cfg = s.cfg := by
    cases hf <;> exact ⟨rfl, rfl, rfl⟩
  obtain ⟨h₁, h₂, h₃⟩ := same
  by_cases hr : s.cmdOp = opcRead
  · rw [hr, decodePending_read] at hi
    cases hi
    cases exec_case h with
    | rStall => exact .inl rfl
    | r ho hq => exact .inr (.read u hf hr (h₁ ▸ ‹_›) (h₂ ▸ ‹_›))
  by_cases hw : s.cmdOp = opcWrite
  · rw [hw, decodePending_write] at hi
    obtain ⟨data, hd, rfl⟩ := Option.map_eq_some_iff.mp hi
    cases exec_case h with
    | wStall => exact .inl rfl
    | w a v front rest hin ho hq hb =>
      rw [hin] at hd
      cases hd
      exact .inr (.write u _ rest hf hw hin (h₁ ▸ ho) (h₂ ▸ hq) (h₃ ▸ hb))
  rcases decodePending_other hr hw u.cmdAddr u.inq.head? with hn | hn
  · rw [hn] at hi; cases hi
  · rw [hn] at hi; cases hi; cases h; exact .inl rfl

theorem advance_case {s t : State} (h : advance s = .next t) : AdvanceCase s t := by
  by_cases hg : s.gateA = true
  · obtain ⟨hne, hq, ho⟩ := (gateA_eq_true s).mp hg
    obtain ⟨b, rest, hq⟩ := List.exists_cons_of_ne_nil hq
    rcases hp : s.pstate with _ | _ | _ | _
    · by_cases h₁ : b = opcProtOn
      · subst h₁
        simp only [advance, fetch_protOn hp hq ho] at h
        cases exec_case h with
        | e _ hu => exact .protOn rest hp hq ho hu
      by_cases h₂ : b = opcProtOff
      · subst h₂
        simp only [advance, fetch_protOff hp hq ho] at h
        cases exec_case h with
        | d _ hu => exact .protOff rest hp hq ho hu
      simp only [advance, fetch_opcode hp hq ho h₁ h₂, stall] at h
      cases h
      exact .opcode b rest hp hq ho h₁ h₂
    · simp only [advance, fetch_highByte hp hq ho, stall] at h
      cases h
      exact .highByte b rest hp hq ho
    · simp only [advance, fetch_lowByte hp hq ho] at h
      split at h
      · rename_i u i heq
        injection heq with h₁ h₂
        subst h₁
        rcases phaseB_case (.taken b rest hp hq) (by simpa using h₂) h with rfl | hc
        · exact .lowByte b rest hp hq ho
        · exact hc
      · rename_i u heq
        injection heq with h₁ h₂
        subst h₁
        cases h
        exact .lowByte b rest hp hq ho
    · exact absurd hp hne
  · have hg : s.gateA = false := by simpa using hg
    simp only [advance, fetch_closed hg] at h
    split at h
    · rename_i u i heq
      injection heq with h₁ h₂
      subst h₁
      unfold State.pending at h₂
      split at h₂
      · rcases phaseB_case (.pending ‹_›) h₂ h with rfl | hc
        · exact .stall hg
        · exact hc
      · cases h₂
    · rename_i u heq
      injection heq with h₁ h₂
      subst h₁
      cases h
      exact .stall hg

/-- With `OUTQ` full an invocation changes nothing (43_commands.md R141, R150, R151). -/
theorem advance_full {s t : State} (ho : s.outqFull = true) (h : advance s = .next t) : t = s := by
  cases advance_case h with
  | stall => rfl
  | _ => exact absurd ho (by simp_all)

/-! ### Runs of one step, and of no event -/

/-- A run of one step is that step. -/
theorem core_run_one (M : Host.Core) (s : M.State) : M.run 1 s = M.step s := by
  simp only [Host.Core.run]
  split <;> simp_all

theorem run_one (s : State) : Host.Core.run Sys2Proof.core 1 s = step s := core_run_one Sys2Proof.core s

/-- A state that a step leaves as it is, every run leaves as it is. -/
theorem run_fixed {s : State} (h : step s = .next s) (n : Nat) :
    Host.Core.run Sys2Proof.core n s = .next s := by
  induction n with
  | zero => rfl
  | succ n ih => rw [run_succ_of_next h]; exact ih

end Sys2Proof.Machine
end

