-- ==== Sys2Proof/Laws/PerInstr.lean ====
section
/-! SUPPORT. What is said of every instruction as syntax, one lemma per constructor.  `EncodedLength`: a
well-formed command is encoded as its opcode byte and as many operand bytes as that byte alone fixes
(30_encoding.md R86), and an operation as the one `OP_SEL` code of its row (R89). -/

namespace Sys2Proof.Laws

/-- The `OP_SEL` code of an operation (30_encoding.md R89). -/
def EncodedLength.opSel : Instr → Option (BitVec 3)
  | .r _ => none
  | .w _ _ => none
  | .e => none
  | .d => none
  | .unk _ _ => none
  | .readByte _ => some 0b000
  | .writeByte _ _ => some 0b001
  | .poll _ _ => some 0b010
  | .protEnable => some 0b011
  | .protDisable => some 0b100

def EncodedLength.Statement (i : Instr) : Prop :=
  i.wf = true →
    match encode i with
    | .stream bytes =>
      opSel i = none ∧ ∃ op operands, bytes = op :: operands ∧ operands.length = operandBytes op
    | .port q => opSel i = some q.sel

theorem EncodedLength.r (address : Addr) : Statement (.r address) := fun _ => ⟨rfl, _, _, rfl, rfl⟩

theorem EncodedLength.w (address : Addr) (data : Byte) : Statement (.w address data) :=
  fun _ => ⟨rfl, _, _, rfl, rfl⟩

theorem EncodedLength.e : Statement .e := fun _ => ⟨rfl, _, _, rfl, rfl⟩

theorem EncodedLength.d : Statement .d := fun _ => ⟨rfl, _, _, rfl, rfl⟩

theorem EncodedLength.unk (opcode : Byte) (address : Addr) : Statement (.unk opcode address) := fun h =>
  ⟨rfl, _, _, rfl, by rw [operandBytes, opcodeClass_of_wf_unk h]; rfl⟩

theorem EncodedLength.readByte (address : Addr) : Statement (.readByte address) := fun _ => rfl

theorem EncodedLength.writeByte (address : Addr) (value : Byte) : Statement (.writeByte address value) :=
  fun _ => rfl

theorem EncodedLength.poll (address : Addr) (expected : Byte) : Statement (.poll address expected) :=
  fun _ => rfl

theorem EncodedLength.protEnable : Statement .protEnable := fun _ => rfl

theorem EncodedLength.protDisable : Statement .protDisable := fun _ => rfl

end Sys2Proof.Laws
end

