-- ==== Sys2Proof/Laws/Poll.lean ====
section
/-! SUPPORT. The address mask, the idle bus, and what POLL's reads are in terms of the device's answers. -/

namespace Sys2Proof.Machine

/-- `a15 = address & 0x7FFF` (40_bus_cycles.md R103). -/
theorem maskAddr_eq (address : Addr) : (address &&& 0x7FFF).setWidth 15 = maskAddr address := by
  apply BitVec.eq_of_getLsbD_eq
  intro i hi
  simp only [maskAddr, BitVec.getLsbD_setWidth, BitVec.getLsbD_and]
  interval_cases i <;> simp

/-- The form simp gives the mask. -/
theorem maskAddr_eq_and (address : Addr) : address.setWidth 15 &&& 32767#15 = maskAddr address := by
  apply BitVec.eq_of_getLsbD_eq
  intro i hi
  simp only [maskAddr, BitVec.getLsbD_setWidth, BitVec.getLsbD_and]
  interval_cases i <;> simp

theorem maskAddr_and (address : Addr) : maskAddr (address &&& 0x7FFF) = maskAddr address :=
  maskAddr_eq address

theorem maskAddr_or (address : Addr) : maskAddr (address ||| 0x8000) = maskAddr address := by
  apply BitVec.eq_of_getLsbD_eq
  intro i hi
  simp only [maskAddr, BitVec.getLsbD_setWidth, BitVec.getLsbD_or]
  interval_cases i <;> simp

/-- The idle bus leaves only the two latches open (10_state.md R29). -/
theorem Bus.eq_of_idle {b : Bus} (h : b.idle = true) :
    b = ⟨b.aOut, false, b.dOut, false, true, true, true, true⟩ := by
  cases b
  simp_all [Bus.idle]

theorem quiet_iff (s : State) :
    s.quiet = true ↔ s.bus.idle = true ∧ s.poller = .pIdle ∧ s.runner = .sIdle := by
  simp [State.quiet, and_assoc]

/-- The device's answers depend on the device, the draw counter and `TRACE` alone. -/
theorem answers_congr {a : DevAddr} (n : Nat) {s t : State} (ht : s.trace = t.trace)
    (hd : s.device = t.device) (hn : s.draw = t.draw) : State.answers a n s = State.answers a n t := by
  induction n generalizing s t with
  | zero => rfl
  | succ n ih =>
    have ha : s.answer a = t.answer a := by simp only [State.answer, ht, hd, hn]
    simp only [State.answers, ha]
    rw [ih (s := s.emitRead a (t.answer a)) (t := t.emitRead a (t.answer a))]
    · simp [ht]
    · simp [hd]
    · simp [hn]

@[simp] theorem answers_length (a : DevAddr) (n : Nat) (s : State) : (State.answers a n s).length = n := by
  induction n generalizing s with
  | zero => rfl
  | succ n ih => simp [State.answers, ih]

/-- One read of POLL, in terms of the device's answer. -/
theorem pollRead_spec (address : Addr) (s : State) :
    (pollRead address s).pollObs = s.answer (maskAddr address) ∧
      (pollRead address s).pollIter = s.pollIter + 1 ∧
      (pollRead address s).trace = s.trace ++ [.rd (maskAddr address) (s.answer (maskAddr address))] ∧
      (pollRead address s).device = s.device.afterRead ∧ (pollRead address s).draw = s.draw + 1 :=
  ⟨rfl, rfl, rfl, rfl, rfl⟩

/-- `k` reads of POLL, in terms of the device's answers: the events, the two registers, and what the device
answers afterwards. -/
theorem pollRead_iterate (address : Addr) (k : Nat) (s : State) :
    ((pollRead address)^[k] s).trace =
        s.trace ++ (State.answers (maskAddr address) k s).map (.rd (maskAddr address)) ∧
      ((pollRead address)^[k] s).pollIter = s.pollIter + k ∧
      (0 < k → (State.answers (maskAddr address) k s)[k - 1]? = some ((pollRead address)^[k] s).pollObs) ∧
      ∀ m, State.answers (maskAddr address) (k + m) s =
        State.answers (maskAddr address) k s ++
          State.answers (maskAddr address) m ((pollRead address)^[k] s) := by
  induction k generalizing s with
  | zero => simp [State.answers]
  | succ k ih =>
    obtain ⟨hobs, hiter, htr, hdev, hdraw⟩ := pollRead_spec address s
    obtain ⟨h₁, h₂, h₃, h₄⟩ := ih (pollRead address s)
    have hc : ∀ m, State.answers (maskAddr address) m
        (s.emitRead (maskAddr address) (s.answer (maskAddr address))) =
          State.answers (maskAddr address) m (pollRead address s) :=
      fun m => answers_congr m (by simp [htr]) (by simp [hdev]) (by simp [hdraw])
    simp only [Function.iterate_succ_apply, State.answers, hc]
    refine ⟨by simp [h₁, htr], by omega, fun _ => ?_, fun m => ?_⟩
    · rcases Nat.eq_zero_or_pos k with rfl | hk
      · simp [State.answers, hobs]
      · have := h₃ hk
        obtain ⟨j, rfl⟩ : ∃ j, k = j + 1 := ⟨k - 1, by omega⟩
        simpa using this
    · rw [show k + 1 + m = (k + m) + 1 by omega]
      simp only [State.answers, hc, h₄, List.cons_append]

/-- POLL's whole effect in terms of the device's answers (41_poller.md R120, R121): it makes `k` reads, stops
at the first answer equal to the expected byte or at the bound, and keeps the last answer. -/
theorem poll_reads (address : Addr) (expected : Byte) (s : State) (hb : 1 ≤ s.cfg.pollBound) :
    ∃ k, 1 ≤ k ∧ k ≤ s.cfg.pollBound ∧
      (poll address expected s).2 = ((pollRead address)^[k] (s.setPollIter 0)).setPoller .pIdle ∧
      (∀ j, j + 1 < k → (State.answers (maskAddr address) k s)[j]? ≠ some expected) ∧
      ((State.answers (maskAddr address) k s)[k - 1]? = some expected ∨ k = s.cfg.pollBound) := by
  obtain ⟨k, hk, hpos, heq, hbefore, hend⟩ :=
    pollLoop_reads address expected s.cfg.pollBound (s.setPollIter 0)
  have hk1 : 1 ≤ k := hpos hb
  have hc : ∀ m, State.answers (maskAddr address) m (s.setPollIter 0) =
      State.answers (maskAddr address) m s := fun m => answers_congr m rfl rfl rfl
  refine ⟨k, hk1, hk, by simp only [poll, heq], fun j hj hx => ?_, ?_⟩
  · obtain ⟨_, _, h₃, h₄⟩ := pollRead_iterate address (j + 1) (s.setPollIter 0)
    refine hbefore (j + 1) (by omega) hj ?_
    have hsplit := h₄ (k - (j + 1))
    rw [show j + 1 + (k - (j + 1)) = k by omega] at hsplit
    rw [← hc, hsplit, List.getElem?_append_left (by simp)] at hx
    have := h₃ (by omega)
    rw [Nat.add_sub_cancel] at this
    exact Option.some.inj (this.symm.trans hx)
  · obtain ⟨_, _, h₃, _⟩ := pollRead_iterate address k (s.setPollIter 0)
    refine (hend hb).imp (fun hx => ?_) id
    rw [← hc, h₃ (by omega), hx]

end Sys2Proof.Machine
end

