-- ==== Sys2Proof/Tests/Slice0.lean ====
section
/-! SUPPORT. Tests of one step or one decoding, with expected values from the spec (95_test_vectors.md unless
said otherwise), and for every obligation with hypotheses a witness that meets them all. -/

namespace Sys2Proof.Tests

open Sys2Proof Sys2Proof.Machine

/-! ### WellFormed: each check refuses an ill-formed term -/

theorem test_wf_refuses_unk_r : (Instr.unk 0x72 0x1234).wf = false := by decide
theorem test_wf_refuses_unk_w : (Instr.unk 0x77 0x1234).wf = false := by decide
theorem test_wf_refuses_unk_e : (Instr.unk 0x65 0x1234).wf = false := by decide
theorem test_wf_refuses_unk_d : (Instr.unk 0x64 0x1234).wf = false := by decide
theorem test_wf_accepts_unk_upper_case : (Instr.unk 0x52 0x1234).wf = true := by decide

/-! ### Decoding: words written out from 30_encoding.md R81, R82, R89 -/

/-- `01110010 hhhhhhhh llllllll` -/
theorem test_decode_r : decodeStream [0b01110010, 0b00010010, 0b00110100] = .ok (.r 0x1234, []) := rfl

/-- `01110111 hhhhhhhh llllllll dddddddd`; section 3, program 3 -/
theorem test_decode_w :
    decodeStream [0b01110111, 0b10000000, 0b00010000, 0b00010001, 0x72] = .ok (.w 0x8010 0x11, [0x72]) := rfl

/-- `01100101` -/
theorem test_decode_e : decodeStream [0b01100101, 0b01110010] = .ok (.e, [0b01110010]) := rfl

/-- `01100100` -/
theorem test_decode_d : decodeStream [0b01100100] = .ok (.d, []) := rfl

/-- Section 3, program 5 -/
theorem test_decode_unk : decodeStream [0x78, 0x01, 0x02, 0x72] = .ok (.unk 0x78 0x0102, [0x72]) := rfl

/-- Section 2.1: the neighbours of the four opcodes, the upper-case letters, 00 and FF -/
theorem test_decode_neighbours :
    ∀ b ∈ [(0x52 : Byte), 0x57, 0x45, 0x44, 0x63, 0x66, 0x71, 0x73, 0x76, 0x78, 0x00, 0xFF],
      opcodeClass b = .unrecognised ∧ operandBytes b = 2 := by decide

theorem test_decode_incomplete_w :
    decodeStream [0x77, 0x00, 0x10] = .error (.truncated 1) := rfl

theorem test_decode_readByte : decodeRequest ⟨0b000, 0x9234, 0x55⟩ = .ok (.readByte 0x9234) := rfl
theorem test_decode_writeByte : decodeRequest ⟨0b001, 0xD555, 0xAA⟩ = .ok (.writeByte 0xD555 0xAA) := rfl
theorem test_decode_poll : decodeRequest ⟨0b010, 0x8010, 0xAB⟩ = .ok (.poll 0x8010 0xAB) := rfl
theorem test_decode_protEnable : decodeRequest ⟨0b011, 0x8010, 0xAB⟩ = .ok .protEnable := rfl
theorem test_decode_protDisable : decodeRequest ⟨0b100, 0x8010, 0xAB⟩ = .ok .protDisable := rfl

theorem test_decode_reserved :
    decodeRequest ⟨0b101, 0, 0⟩ = .error (.reservedOpSel 0b101) ∧
      decodeRequest ⟨0b110, 0, 0⟩ = .error (.reservedOpSel 0b110) ∧
      decodeRequest ⟨0b111, 0, 0⟩ = .error (.reservedOpSel 0b111) := ⟨rfl, rfl, rfl⟩

/-- Section 2.2: address assembly and masking -/
theorem test_address_table :
    ∀ row ∈ [((0x00 : Byte), (0x10 : Byte), (0x0010 : Addr), (0x0010 : DevAddr)),
        (0x7F, 0xFF, 0x7FFF, 0x7FFF), (0x80, 0x10, 0x8010, 0x0010), (0x92, 0x34, 0x9234, 0x1234),
        (0xFF, 0xFF, 0xFFFF, 0x7FFF), (0xD5, 0x55, 0xD555, 0x5555), (0xAA, 0xAA, 0xAAAA, 0x2AAA)],
      orLow (storeHigh row.1) row.2.1 = row.2.2.1 ∧ maskAddr row.2.2.1 = row.2.2.2 := by simp; decide

/-- The words of spec/opcode_table.json, one per row (its `match` values). -/
theorem test_table_words :
    decodeTableWord 8 0x72 = some (.r 0) ∧ decodeTableWord 8 0x77 = some (.w 0 0) ∧
    decodeTableWord 8 0x65 = some .e ∧ decodeTableWord 8 0x64 = some .d ∧
    decodeTableWord 24 0x020178 = some (.unk 0x78 0x0102) ∧
    decodeTableWord 8 0 = some (.readByte 0) ∧ decodeTableWord 8 1 = some (.writeByte 0 0) ∧
    decodeTableWord 8 2 = some (.poll 0 0) ∧ decodeTableWord 8 3 = some .protEnable ∧
    decodeTableWord 8 4 = some .protDisable := ⟨rfl, rfl, rfl, rfl, rfl, rfl, rfl, rfl, rfl, rfl⟩

/-! ### One step -/

/-- What the tables of 95_test_vectors.md section 2.6 show of the state after an invocation. -/
structure View where
  pstate : PState
  cmdOp : Byte
  cmdAddr : Addr
  inq : List Byte
  outq : List Byte
  trace : List BusEvent
deriving DecidableEq, Repr

def view : Host.Outcome State Fault Refusal → Option View
  | .next t => some ⟨t.pstate, t.cmdOp, t.cmdAddr, t.inq, t.outq, t.trace⟩
  | .fault _ => none
  | .refused _ => none

def isNext : Host.Outcome State Fault Refusal → Bool
  | .next _ => true
  | .fault _ => false
  | .refused _ => false

/-- A block on `SimDev` with `mem[a] = FF` but at 0x1234 (section 1.1, scenario B). -/
def block (p : PState) (op : Byte) (a : Addr) (inq outq : List Byte) : State :=
  { State.reset with
    pstate := p, cmdOp := op, cmdAddr := a, inq := inq, outq := outq, device := .simDev [(0x1234, 0x7F)] }

/-- `F`: an `OUTQ` holding `QCAP` bytes. -/
def full : List Byte := [0, 0, 0, 0, 0, 0, 0, 0, 0, 0]

/-- Section 2.6 number 11 with scenario B's device -/
theorem test_r :
    view (step (block .awaitAddressLow 0x72 0x1200 [0x34] [])) =
      some ⟨.awaitOpcode, 0x72, 0x1234, [], [0x7F], [.rd 0x1234 0x7F]⟩ := by decide

/-- Section 2.6 number 18 -/
theorem test_r_in_execute :
    view (step (block .execute 0x72 0x1234 [0x99] [0x01])) =
      some ⟨.awaitOpcode, 0x72, 0x1234, [0x99], [0x01, 0x7F], [.rd 0x1234 0x7F]⟩ := by decide

/-- Section 2.6 number 21 -/
theorem test_w :
    view (step (block .awaitAddressLow 0x77 0x6400 [0x65, 0x72] [])) =
      some ⟨.awaitOpcode, 0x77, 0x6465, [], [0x72], [.wr 0x6465 0x72, .rd 0x6465 0x72, .rd 0x6465 0x72]⟩ := by
  decide

/-- Section 2.7, second row: the poll runs out, the final read matches -/
theorem test_w_exhausted :
    view (step { block .execute 0x77 0x0000 [0xFF] [] with
      cfg := { Config.reference with pollBound := 3 }, device := .script [0x00, 0x00, 0x00, 0xFF] }) =
      some ⟨.awaitOpcode, 0x77, 0x0000, [], [0xFF],
        [.wr 0 0xFF, .rd 0 0x00, .rd 0 0x00, .rd 0 0x00, .rd 0 0xFF]⟩ := by decide

/-- Section 2.6 number 6 -/
theorem test_e :
    view (step (block .awaitOpcode 0 0 [0x65, 0x72] [])) =
      some ⟨.awaitOpcode, 0x65, 0, [0x72], [0x45], [.wr 0x5555 0xAA, .wr 0x2AAA 0x55, .wr 0x5555 0xA0]⟩ := by
  decide

/-- Section 2.6 number 8 -/
theorem test_e_full :
    view (step (block .awaitOpcode 0 0 [0x65] full)) = some ⟨.awaitOpcode, 0, 0, [0x65], full, []⟩ := by
  decide

/-- Section 2.6 number 7 -/
theorem test_d :
    view (step (block .awaitOpcode 0 0 [0x64] [0x01])) =
      some ⟨.awaitOpcode, 0x64, 0, [], [0x01, 0x44],
        [.wr 0x5555 0xAA, .wr 0x2AAA 0x55, .wr 0x5555 0x80, .wr 0x5555 0xAA, .wr 0x2AAA 0x55,
          .wr 0x5555 0x20]⟩ := by decide

/-- Section 2.6 number 19 -/
theorem test_unk :
    view (step (block .execute 0x78 0x0102 [0x72, 0x00, 0x00] [])) =
      some ⟨.execute, 0x78, 0x0102, [0x72, 0x00, 0x00], [], []⟩ := by decide

/-- Section 2.6 number 9 -/
theorem test_high_byte_overwrites :
    view (step (block .awaitAddressHigh 0x72 0xFFFF [0x12] [])) =
      some ⟨.awaitAddressLow, 0x72, 0x1200, [], [], []⟩ := by decide

/-- Section 2.6 number 14 -/
theorem test_w_without_data :
    view (step (block .awaitAddressLow 0x77 0x0000 [0x10] [])) =
      some ⟨.execute, 0x77, 0x0010, [], [], []⟩ := by decide

/-! ### The operation port -/

/-- What a request on the port shows: `OP_RESULT` and `TRACE`. -/
def portView : Host.Outcome State Fault Refusal → Option (Byte × List BusEvent)
  | .next t => some (t.opResult, t.trace)
  | .fault _ => none
  | .refused _ => none

/-- A block with a request on the port and a scripted device. -/
def asked (sel : BitVec 3) (a : Addr) (v : Byte) (answers : List Byte) : State :=
  { State.reset with device := .script answers, agenda := [.request ⟨sel, a, v⟩] }

/-- Section 2.3 -/
theorem test_readByte :
    portView (step (asked 0b000 0xFFFF 0x00 [0xA5])) = some (0xA5, [.rd 0x7FFF 0xA5]) := by decide

def pins : Host.Outcome State Fault Refusal → List Bus
  | .next t => t.pinTrace
  | .fault _ => []
  | .refused _ => []

/-- 40_bus_cycles.md R111, the read, with `x` the model's latched values -/
theorem test_readByte_pins :
    pins (step (asked 0b000 0x9234 0x00 [0x7F])) =
      [⟨0x1234, true, 0, false, true, true, true, true⟩, ⟨0x1234, true, 0, false, true, true, true, true⟩,
        ⟨0x1234, true, 0, false, true, false, true, true⟩, ⟨0x1234, true, 0, false, true, false, false, true⟩,
        ⟨0x1234, true, 0, false, true, false, false, true⟩, ⟨0x1234, true, 0, false, true, false, false, true⟩,
        ⟨0x1234, true, 0, false, true, false, true, true⟩, ⟨0x1234, true, 0, false, true, true, true, true⟩,
        ⟨0x1234, false, 0, false, true, true, true, true⟩] := by decide

/-- Section 2.3 -/
theorem test_writeByte :
    portView (step (asked 0b001 0x8010 0xAB [])) = some (0x00, [.wr 0x0010 0xAB]) := by decide

/-- 40_bus_cycles.md R111, the write, with `x` the model's latched values -/
theorem test_writeByte_pins :
    pins (step (asked 0b001 0xD555 0xAA [])) =
      [⟨0x5555, true, 0, false, true, true, true, true⟩, ⟨0x5555, true, 0, false, true, false, true, true⟩,
        ⟨0x5555, true, 0xAA, false, true, false, true, true⟩, ⟨0x5555, true, 0xAA, true, false, false, true, true⟩,
        ⟨0x5555, true, 0xAA, true, false, false, true, false⟩, ⟨0x5555, true, 0xAA, true, false, false, true, false⟩,
        ⟨0x5555, true, 0xAA, true, false, false, true, true⟩, ⟨0x5555, true, 0xAA, true, false, false, true, true⟩,
        ⟨0x5555, true, 0xAA, true, false, true, true, true⟩, ⟨0x5555, false, 0xAA, true, false, true, true, true⟩,
        ⟨0x5555, false, 0xAA, false, true, true, true, true⟩] := by decide

/-- Section 2.4: the masked address, match on the second read -/
theorem test_poll :
    portView (step (asked 0b010 0x8010 0xAB [0x2B, 0xAB, 0x00])) =
      some (0xAB, [.rd 0x0010 0x2B, .rd 0x0010 0xAB]) := by decide

/-- Section 2.4: bound 3 exhausted, the fourth answer never read -/
theorem test_poll_exhausted :
    portView (step { asked 0b010 0 0xAB [0x00, 0x00, 0x00, 0xAB] with
      cfg := { Config.reference with pollBound := 3 } }) =
      some (0x00, [.rd 0 0x00, .rd 0 0x00, .rd 0 0x00]) := by decide

/-- Section 2.5 -/
theorem test_protEnable :
    portView (step (asked 0b011 0 0 [])) =
      some (0x00, [.wr 0x5555 0xAA, .wr 0x2AAA 0x55, .wr 0x5555 0xA0]) := by decide

def contents : Host.Outcome State Fault Refusal → Option Device
  | .next t => some t.device
  | .fault _ => none
  | .refused _ => none

/-- Section 2.5: what `SimDev` holds after PROT_DISABLE -/
theorem test_protDisable :
    contents (step { asked 0b100 0 0 [] with device := .simDev [] }) =
      some (.simDev [(0x2AAA, 0x55), (0x5555, 0x20)]) := by decide

/-! ### Reset, the environments and the fetch of a table word -/

/-- 70_reset_and_hazards.md R203: cut after WB5, with write-enable low -/
theorem test_cut_write :
    pins (step { State.reset with agenda := [.cutRequest 4 ⟨0b001, 0x0010, 0xAB⟩] }) =
      [⟨0x0010, true, 0xAB, true, false, false, true, true⟩, ⟨0x0010, true, 0xAB, true, false, false, true, true⟩,
        ⟨0x0010, true, 0xAB, true, false, true, true, true⟩, ⟨0x0010, false, 0xAB, true, false, true, true, true⟩,
        ⟨0x0010, false, 0xAB, false, true, true, true, true⟩] := by decide

/-- Section 3, program 6, `+72` and `-33` -/
theorem test_transport :
    (transportAppend { State.reset with hostStream := [0x72, 0x00] }).inq = [0x72] ∧
      (transportRemove { State.reset with outq := [0x33, 0x44] }).hostReceived = [0x33] := by decide

/-- Each row's word, placed after reset, is the first instruction the step runs. -/
theorem test_fetch_words :
    ∀ word ∈ [(8, 0x72), (8, 0x77), (8, 0x65), (8, 0x64), (24, 0x020178), (8, 0), (8, 1), (8, 2), (8, 3), (8, 4)],
      isNext (step (State.reset.withFetchWord word.1 word.2)) = true := by decide

theorem test_fetch_w_replies :
    view (step ({ State.reset with device := .simDev [] }.withFetchWord 32 0xAB100077)) =
      some ⟨.awaitOpcode, 0x77, 0x0010, [], [0xAB], [.wr 0x0010 0xAB, .rd 0x0010 0xAB, .rd 0x0010 0xAB]⟩ := by
  decide

/-! ### Witnesses: a concrete input that meets all the hypotheses of each obligation

Where a hypothesis says what a step or an instruction answers, the witness gives the state before, and the
answer is what the model computes from it. -/

theorem witness_DecodeEncodeAgree :
    (Instr.unk 0x78 0xFFFF).wf = true ∧ encode (.unk 0x78 0xFFFF) = .stream [0x78, 0xFF, 0xFF] :=
  ⟨by decide, rfl⟩

theorem witness_DecodedBytesAreTheEncoding :
    decodeStream [0x77, 0xFF, 0xFF, 0xFF, 0x65] = .ok (.w 0xFFFF 0xFF, [0x65]) := rfl

/-- Each of the three counts, one byte short of it and exactly at it. -/
theorem witness_OpcodeAloneFixesLength :
    (¬ ([] : List Byte).length < 0 ∧ 0 ≤ ([] : List Byte).length) ∧
      ([0x00, 0x10] : List Byte).length < 3 ∧ 3 ≤ ([0x00, 0x10, 0xAB] : List Byte).length ∧
      ([0x00] : List Byte).length < 2 ∧ 2 ≤ ([0x00, 0x10] : List Byte).length := by decide

/-- The `r` clause and the `w` clause, at the top address. -/
theorem witness_AddressOperandIsBigEndian :
    ∀ case ∈ [((0x72 : Byte), ([0xFF, 0xFF, 0x65] : List Byte)), (0x77, [0xFF, 0xFF, 0xAB, 0x65])],
      let s := block .awaitAddressHigh case.1 0xFFFF case.2 []
      s.cfg.wf = true ∧ s.agenda = [] ∧ s.quiet = true ∧ s.outqFull = false ∧ s.pstate = .awaitAddressHigh ∧
        s.cmdOp = case.1 ∧ s.inq = 0xFF :: 0xFF :: case.2.drop 2 := by decide

theorem witness_StepRuns_agenda :
    let s := block .awaitOpcode 0 0 [0x65] []
    let t := { s with agenda := [.invoke] }
    s.cfg.wf = true ∧ s.agenda = [] ∧ t.cfg.wf = true ∧ t.agenda = .invoke :: [] := by decide

theorem witness_StepRuns_protect :
    let s := block .awaitOpcode 0 0 [0x64, 0x65] []
    s.outqFull = false ∧ s.pstate = .awaitOpcode ∧ s.inq = 0x64 :: [0x65] ∧
      ((0x64 : Byte) = 0x65 ∨ (0x64 : Byte) = 0x64) ∧ decodeStream (0x64 :: [0x65]) = .ok (.d, [0x65]) :=
  ⟨by decide, by decide, by decide, by decide, rfl⟩

theorem witness_StepRuns_lowByte :
    let s := block .awaitAddressLow 0x77 0xFF00 [0xFF, 0xAB] []
    s.outqFull = false ∧ s.pstate = .awaitAddressLow ∧ s.cmdOp ≠ 0x65 ∧ s.cmdOp ≠ 0x64 ∧
      s.cmdAddr = (0xFF : Byte).setWidth 16 <<< 8 ∧ s.inq = 0xFF :: [0xAB] ∧
      decodeStream (s.cmdOp :: 0xFF :: 0xFF :: [0xAB]) = .ok (.w 0xFFFF 0xAB, []) :=
  ⟨by decide, by decide, by decide, by decide, by decide, by decide, rfl⟩

theorem witness_StepRuns_data :
    let s := block .execute 0x77 0x1234 [0xAB] []
    s.pstate = .execute ∧ s.cmdOp = 0x77 ∧ s.cmdAddr = ((0x12 : Byte) ++ (0x34 : Byte) : BitVec (8 + 8)) ∧
      s.inq = 0xAB :: [] ∧ decodeStream (s.cmdOp :: 0x12 :: 0x34 :: 0xAB :: []) = .ok (.w 0x1234 0xAB, []) :=
  ⟨by decide, by decide, by decide, by decide, rfl⟩

theorem witness_StepRuns_request :
    let s := asked 0b100 0 0 []
    s.cfg.wf = true ∧ s.agenda = .request ⟨0b100, 0, 0⟩ :: [] ∧
      decodeRequest ⟨0b100, 0, 0⟩ = .ok .protDisable :=
  ⟨by decide, by decide, rfl⟩

/-- The gate closed by each queue, and open. -/
theorem witness_PhaseAGate :
    let s₁ := block .awaitAddressHigh 0x72 0 [] []
    let s₂ := block .awaitAddressHigh 0x72 0 [0x12] full
    let s₃ := block .awaitAddressLow 0x77 0 [0x10, 0xAB] []
    (s₁.cfg.wf = true ∧ s₁.agenda = [] ∧ s₁.pstate ≠ .execute ∧ s₁.inq = []) ∧
      (s₂.cfg.wf = true ∧ s₂.agenda = [] ∧ s₂.pstate ≠ .execute ∧ s₂.outqFull = true) ∧
      (s₃.cfg.wf = true ∧ s₃.agenda = [] ∧ s₃.pstate ≠ .execute ∧ s₃.inq = 0x10 :: [0xAB] ∧
        s₃.outqFull = false ∧ isNext (step s₃) = true) := by decide

theorem witness_OtherOpcodeIsStored :
    let s := block .awaitOpcode 0 0 [0xFF, 0x00] []
    s.cfg.wf = true ∧ s.agenda = [] ∧ s.pstate = .awaitOpcode ∧ s.inq = 0xFF :: [0x00] ∧
      s.outqFull = false ∧ (0xFF : Byte) ≠ 0x65 ∧ (0xFF : Byte) ≠ 0x64 := by decide

theorem witness_HighByteReplacesAddress :
    let s := block .awaitAddressHigh 0x77 0xFFFF [0x00] []
    s.cfg.wf = true ∧ s.agenda = [] ∧ s.pstate = .awaitAddressHigh ∧ s.inq = 0x00 :: [] ∧
      s.outqFull = false := by decide

/-- One state for each of the clauses: `r`, `w` with and without its data byte, and an unrecognised opcode. -/
theorem witness_LowByteCompletesAddress :
    ∀ case ∈ [((0x72 : Byte), ([0xFF] : List Byte)), (0x77, [0xFF, 0xAB]), (0x77, [0xFF]), (0x78, [0xFF])],
      let s := block .awaitAddressLow case.1 0x1200 case.2 []
      s.cfg.wf = true ∧ s.agenda = [] ∧ s.pstate = .awaitAddressLow ∧ s.inq = 0xFF :: case.2.tail ∧
        s.outqFull = false ∧ s.cmdAddr = (0x12 : Byte).setWidth 16 <<< 8 := by decide

theorem witness_ExecuteActsByStoredOpcode :
    ∀ case ∈ [((0x72 : Byte), ([] : List Byte)), (0x77, [0xAB]), (0x77, []), (0x78, [0xFF])],
      let s := block .execute case.1 0x1234 case.2 []
      s.cfg.wf = true ∧ s.agenda = [] ∧ s.pstate = .execute ∧ s.cmdOp = case.1 := by decide

/-- NoPartialExecution, one state for each kind of stall: `OUTQ` full, `INQ` empty in an Await state and for the
data byte of `w`, and an unmatched opcode. -/
theorem witness_NoPartialExecution_stalls :
    let s₁ := block .awaitOpcode 0 0 [0x65] full
    let s₂ := block .awaitAddressLow 0x72 0x1200 [] []
    let s₃ := block .execute 0x77 0x1234 [] []
    let s₄ := block .execute 0x78 0x0102 [0x72] []
    (s₁.agenda = [] ∧ isNext (step s₁) = true ∧ s₁.outqFull = true) ∧
      (s₂.agenda = [] ∧ isNext (step s₂) = true ∧ s₂.inq = [] ∧ s₂.pstate ≠ .execute) ∧
      (s₃.agenda = [] ∧ isNext (step s₃) = true ∧ s₃.inq = [] ∧ s₃.pstate = .execute ∧ s₃.cmdOp = 0x77) ∧
      (s₄.agenda = [] ∧ isNext (step s₄) = true ∧ s₄.pstate = .execute ∧ s₄.cmdOp ≠ 0x72 ∧
        s₄.cmdOp ≠ 0x77) := by decide

/-- For OnlyTheTableMovesProtocolState, WorkPerInvocation and NoPartialExecution: an invocation from each
protocol state, and a stall on a full `OUTQ`. -/
theorem witness_invocations :
    ∀ s ∈ [block .awaitOpcode 0 0 [0x65] [], block .awaitAddressHigh 0x72 0 [0x12] [],
        block .awaitAddressLow 0x77 0x1200 [0x34, 0xAB] [], block .execute 0x72 0x1234 [] [],
        block .execute 0x77 0 [0xAB] full],
      s.agenda = [] ∧ isNext (step s) = true := by decide

theorem witness_BufferedCommandRunsWhole :
    let s := block .awaitOpcode 0 0 [0x77, 0xFF, 0xFF, 0xAB, 0x65] []
    s.cfg.wf = true ∧ s.agenda = [] ∧ s.pstate = .awaitOpcode ∧ s.outqFull = false ∧
      s.inq = 0x77 :: [0xFF, 0xFF, 0xAB, 0x65] ∧ decodeStream s.inq = .ok (.w 0xFFFF 0xAB, [0x65]) :=
  ⟨by decide, by decide, by decide, by decide, by decide, rfl⟩

theorem witness_BufferedCommandRunsWhole_protect :
    let s := block .awaitOpcode 0 0 [0x65] []
    s.cfg.wf = true ∧ s.agenda = [] ∧ s.pstate = .awaitOpcode ∧ s.outqFull = false ∧ s.inq = 0x65 :: [] ∧
      decodeStream s.inq = .ok (.e, []) :=
  ⟨by decide, by decide, by decide, by decide, by decide, rfl⟩

theorem witness_ReadCommand :
    let s := block .execute 0x72 0x1234 [] []
    (s.outqFull = false ∧ s.quiet = true) ∧ (block .execute 0x72 0x1234 [] full).outqFull = true := by decide

/-- The stalls and the whole write; the invocation that takes both bytes, the one that finds no data byte, and
the later one. -/
theorem witness_WriteCommand :
    let s := block .execute 0x77 0xFFFF [0xAB, 0x72] []
    let low := block .awaitAddressLow 0x77 0xFF00 [0xFF, 0xAB] []
    (s.inq = 0xAB :: [0x72] ∧ s.outqFull = false ∧ s.quiet = true ∧ 1 ≤ s.cfg.pollBound) ∧
      (block .execute 0x77 0xFFFF [] []).inq = [] ∧ (block .execute 0x77 0xFFFF [0xAB] full).outqFull = true ∧
      (low.cfg.wf = true ∧ low.agenda = [] ∧ low.cmdOp = 0x77 ∧ low.outqFull = false ∧
        low.pstate = .awaitAddressLow ∧ low.inq = 0xFF :: [0xAB]) ∧
      (s.cfg.wf = true ∧ s.agenda = [] ∧ s.cmdOp = 0x77 ∧ s.pstate = .execute) := by decide

theorem witness_ProtectCommands :
    ∀ op ∈ [(0x65 : Byte), 0x64],
      let s := block .awaitOpcode 0 0 [op, 0x72] []
      let f := block .awaitOpcode 0 0 [op, 0x72] full
      (s.cfg.wf = true ∧ s.agenda = [] ∧ s.pstate = .awaitOpcode ∧ s.inq = op :: [0x72] ∧
        s.outqFull = false ∧ s.quiet = true) ∧
      (f.cfg.wf = true ∧ f.agenda = [] ∧ f.pstate = .awaitOpcode ∧ f.inq = op :: [0x72] ∧
        f.outqFull = true) := by decide

theorem witness_UnrecognisedOpcodeStallsForEver :
    let s := block .execute 0x78 0x0102 [0x72, 0x00, 0x00] []
    s.cfg.wf = true ∧ s.agenda = [] ∧ s.pstate = .execute ∧ s.cmdOp ≠ 0x72 ∧ s.cmdOp ≠ 0x77 := by decide

/-- A block with a byte and a reply in flight and the three kinds of ordinary event to come. -/
def busy (p : PState) (op : Byte) : State :=
  { block p op 0x0102 [0x72] [0x45] with hostStream := [0x01, 0x02], agenda := [.append, .invoke, .remove] }

theorem witness_TransportCannotEndTheStall :
    (busy .execute 0x78).wedged ∧ (∀ ev ∈ (busy .execute 0x78).agenda, ev.ordinary = true) ∧
      isNext (Host.Core.run Sys2Proof.core 4 (busy .execute 0x78)) = true :=
  ⟨⟨rfl, by decide, by decide⟩, by decide, by decide⟩

/-- For the operations of the port: a quiet block with a bound of one. -/
theorem witness_Operations :
    let s := { block .awaitOpcode 0 0 [] [] with cfg := { Config.reference with pollBound := 1 } }
    s.quiet = true ∧ 1 ≤ s.cfg.pollBound ∧ s.poller = .pIdle ∧ s.runner = .sIdle := by decide

/-- A device that never answers the expected byte within the bound, for POLL and for `w`. -/
theorem witness_ExhaustedPoll :
    let s := { block .execute 0x77 0x8010 [0xAB] [] with
      cfg := { Config.reference with pollBound := 3 }, device := .script [0x00, 0x00, 0x00, 0xAB] }
    s.quiet = true ∧ 1 ≤ s.cfg.pollBound ∧ 0xAB ∉ State.answers 0x0010 s.cfg.pollBound s ∧
      s.inq = 0xAB :: [] ∧ s.outqFull = false ∧
      0xAB ∉ State.answers 0x0010 s.cfg.pollBound (s.emitWrite 0x0010 0xAB) := by decide

/-- The last code that starts an operation and the first reserved one. -/
theorem witness_ReservedOpSelIsRefused :
    ∀ sel ∈ [(0b100 : BitVec 3), 0b101],
      (asked sel 0 0 []).cfg.wf = true ∧ (asked sel 0 0 []).agenda = .request ⟨sel, 0, 0⟩ :: [] := by decide

/-- Queues that hold nothing for a command to run on (`OUTQ` full, `INQ` empty), which the port's operations do
not look at; `OUTQ` with a place and `INQ` empty, for `r`, `e` and `d`; and a data byte for `w` as well. -/
theorem witness_SecondOperationIsRefused :
    let cut := fun (s : State) => { s with bus := { Bus.resetValue with ceN := false } }
    (cut (block .execute 0x72 0 [] full)).quiet = false ∧
      ((cut (block .execute 0x72 0 [] [])).quiet = false ∧
        (cut (block .execute 0x72 0 [] [])).outqFull = false) ∧
      ((cut (block .execute 0x77 0 [0xAB] [])).quiet = false ∧
        (cut (block .execute 0x77 0 [0xAB] [])).outqFull = false ∧
        (cut (block .execute 0x77 0 [0xAB] [])).inq ≠ []) := by decide

theorem witness_IllegalEnqueueIsRefused : (block .awaitOpcode 0 0 [] full).outqFull = true := by decide

theorem witness_ConfigurationIsChecked :
    ({ State.reset with cfg := { Config.reference with qcap := 0 } }.cfg.qcap = 0 ∧
      { State.reset with cfg := { Config.reference with pollBound := 0 } }.cfg.pollBound = 0) ∧
      isNext (step State.reset) = true := by decide

theorem witness_TransportKeepsBothStreams :
    ∀ ev ∈ [Event.append, Event.remove],
      let s := { busy .awaitOpcode 0 with agenda := [ev] }
      s.cfg.wf = true ∧ s.agenda = ev :: [] ∧ (ev = .append ∨ ev = .remove) ∧ isNext (step s) = true ∧
        s.inq.length ≤ s.cfg.qcap ∧ s.hostStream ≠ [] ∧ s.inqFull = false ∧ s.outq ≠ [] := by decide

theorem witness_SimDevStoresEachWrite :
    let s := block .awaitOpcode 0 0 [] []
    s.device = .simDev [(0x1234, 0x7F)] ∧ Memory.wf [(0x1234, 0x7F)] = true ∧
      isNext (exec (.writeByte 0x9234 0xFF) s) = true := by decide

theorem witness_ScriptAnswersInOrder :
    let s := asked 0b000 0 0 [0xDA, 0x5A]
    s.device = .script ([0xDA] ++ [0x5A]) ∧ [0xDA] ++ [(0x5A : Byte)] = 0xDA :: [0x5A] := by decide

/-- The top address, with bit 15 set, and exactly the two free places the two replies need. -/
theorem witness_WriteThenReadRoundTrips :
    let s := block .awaitOpcode 0 0 [0x77, 0xFF, 0xFF, 0xAB, 0x72, 0xFF, 0xFF] [0, 0, 0, 0, 0, 0, 0, 0]
    s.cfg.wf = true ∧ s.agenda = [] ∧ s.quiet = true ∧ s.device = .simDev [(0x1234, 0x7F)] ∧
      Memory.wf [(0x1234, 0x7F)] = true ∧ s.pstate = .awaitOpcode ∧
      s.inq = [0x77, 0xFF, 0xFF, 0xAB, 0x72, 0xFF, 0xFF] ++ [] ∧ s.outq.length + 2 ≤ s.cfg.qcap := by decide

/-- Everything in `INQ` and invocations only, against bytes still in the transport that arrive in between. -/
theorem witness_FragmentationDoesNotMatter :
    let s₁ := block .awaitOpcode 0 0 [0x72, 0x12, 0x34] [0x45]
    let s₂ := { block .awaitOpcode 0 0 [0x72] [] with
      hostStream := [0x12, 0x34], hostReceived := [0x45], agenda := [.invoke, .append, .invoke, .append] }
    s₁.cfg.wf = true ∧ s₁.quiet = true ∧
      { s₁ with
        inq := s₂.inq, hostStream := s₂.hostStream, outq := s₂.outq, hostReceived := s₂.hostReceived
        agenda := s₂.agenda } = s₂ ∧
      s₁.inq ++ s₁.hostStream = s₂.inq ++ s₂.hostStream ∧
      s₁.hostReceived ++ s₁.outq = s₂.hostReceived ++ s₂.outq ∧
      (∀ ev ∈ s₁.agenda, ev.ordinary = true) ∧ (∀ ev ∈ s₂.agenda, ev.ordinary = true) ∧
      isNext (Host.Core.run Sys2Proof.core 3 s₁) = true ∧ isNext (Host.Core.run Sys2Proof.core 3 s₂) = true :=
  ⟨by decide, by decide, rfl, by decide, by decide, by decide, by decide, by decide, by decide⟩

/-- A power cycle, an invocation cut inside a cycle, and a request cut inside and after its primitives. -/
theorem witness_PowerCut :
    ∀ ev ∈ [Event.powerCycle, .cutInvocation 0, .cutRequest 4 ⟨0b001, 0, 0⟩, .cutRequest 11 ⟨0b001, 0, 0⟩],
      let s := { block .execute 0x72 0x1234 [] [] with agenda := [ev] }
      s.cfg.wf = true ∧ s.agenda = ev :: [] ∧ ev.resets = true ∧ isNext (step s) = true := by decide

/-- NothingSurvivesAPowerCycle, in the middle of a command with a reply waiting. -/
theorem witness_NothingSurvivesAPowerCycle :
    let s := { block .awaitAddressLow 0x77 0x1200 [0x34] [0x45] with agenda := [.powerCycle, .invoke] }
    s.cfg.wf = true ∧ s.agenda = .powerCycle :: [.invoke] := by decide

/-- A state that meets the invariant, in the middle of a command and with a reply waiting. -/
theorem witness_Inv : (block .awaitAddressLow 0x77 0x1200 [0x34, 0xAB] [0x45]).Inv where
  config := by decide
  inqBounded := by decide
  outqBounded := by decide
  quiet := by decide
  pinsSafe := by decide
  pinsSteady := .nil
  pinsEndIdle := by decide
  device := by decide
  pollBounded := by decide
  seqBounded := by decide
  pendingOpcode := by decide
  noPendingRead := by decide
  halfAddress := by decide

/-- For StepKeepsTheInvariant and EveryStepReturns. -/
theorem witness_InvStep :
    isNext (step (block .awaitAddressLow 0x77 0x1200 [0x34, 0xAB] [0x45])) = true := by decide

/-- EveryStepReturns at the last code that starts an operation. -/
theorem witness_EveryStepReturns :
    (asked 0b100 0 0 []).agenda = [.request ⟨0b100, 0, 0⟩] ∧ (0b100 : BitVec 3).toNat < 5 := by decide

theorem witness_TraceOnlyGrows :
    isNext (step (asked 0b001 0 0 [])) = true ∧
      ∀ ev es, (asked 0b001 0 0 []).agenda = ev :: es → ev.resets = false :=
  ⟨by decide, fun _ _ h => by cases h; rfl⟩

theorem witness_CompleteRunStaysComplete :
    let s := { block .awaitOpcode 0x72 0x0010 [] [] with hostReceived := [0xAB, 0xAB] }
    s.cfg.wf = true ∧ s.agenda = [] ∧ s.complete := ⟨by decide, rfl, rfl, rfl, rfl, rfl⟩

/-- Both ways of being stuck. -/
theorem witness_StuckRunNeverCompletes :
    (busy .execute 0x78).stuck ∧
      (let s := { block .execute 0x77 0x0010 [] [] with agenda := [.append, .invoke] }
       s.stuck ∧ (∀ ev ∈ s.agenda, ev.ordinary = true) ∧
        isNext (Host.Core.run Sys2Proof.core 2 s) = true) :=
  ⟨.inl ⟨rfl, by decide, by decide⟩, .inr ⟨rfl, rfl, .inr (.inr ⟨rfl, rfl⟩)⟩, by decide, by decide⟩

end Sys2Proof.Tests
end

section
/-! Proofs for 30_encoding.md: the length of a command (R86) and its address operand (R83). -/

namespace Sys2Proof

/-! ### The length of a command -/

theorem operandBytes_eq (b : Byte) :
    operandBytes b = if b = 0x65 ∨ b = 0x64 then 0 else if b = 0x77 then 3 else 2 := by
  rcases opcodeClass_cases b with ⟨rfl, _⟩ | ⟨rfl, _⟩ | ⟨rfl, _⟩ | ⟨rfl, _⟩ | ⟨he, hd, _, hw, hc⟩
  · rfl
  · rfl
  · rfl
  · rfl
  · have hnone : ¬(b = 0x65 ∨ b = 0x64) := not_or.mpr ⟨he, hd⟩
    have hthree : ¬b = 0x77 := hw
    rw [if_neg hnone, if_neg hthree, operandBytes, hc]

/-- A stream that ends inside a command's operand bytes is rejected, with the number still missing (R86). -/
theorem decodeStream_of_short {b : Byte} {rest : List Byte} (h : rest.length < operandBytes b) :
    decodeStream (b :: rest) = .error (.truncated (operandBytes b - rest.length)) := by
  unfold operandBytes at h ⊢
  cases hc : opcodeClass b with
  | protOn => simp [hc] at h
  | protOff => simp [hc] at h
  | read | unrecognised =>
    match rest with
    | [] | [_] => simp [decodeStream, hc]
    | _ :: _ :: _ => simp [hc] at h
  | write =>
    match rest with
    | [] | [_] | [_, _] => simp [decodeStream, hc]
    | _ :: _ :: _ :: _ => simp only [hc, List.length_cons] at h; omega

/-- With all its operand bytes there, a command decodes and exactly those bytes are consumed (R86). -/
theorem decodeStream_of_enough {b : Byte} {rest : List Byte} (h : operandBytes b ≤ rest.length) :
    ∃ i, decodeStream (b :: rest) = .ok (i, rest.drop (operandBytes b)) := by
  unfold operandBytes at h ⊢
  cases hc : opcodeClass b with
  | protOn | protOff => simp [decodeStream, hc]
  | read | unrecognised =>
    match rest with
    | [] | [_] => simp [hc] at h
    | _ :: _ :: _ => simp [decodeStream, hc]
  | write =>
    match rest with
    | [] | [_] | [_, _] => simp [hc] at h
    | _ :: _ :: _ :: _ => simp [decodeStream, hc]

/-- Settles O3, by the class of the opcode byte and the operand bytes that follow it. -/
theorem opcodeAloneFixesLength : Obligations.OpcodeAloneFixesLength := by
  intro b rest
  rw [← operandBytes_eq]
  exact ⟨decodeStream_of_short, decodeStream_of_enough⟩

end Sys2Proof

namespace Sys2Proof.Machine

/-! ### The two invocations that take the address bytes -/

/-- The state after a high address byte is taken (43_commands.md R146). -/
abbrev State.takenHigh (s : State) (b : Byte) (rest : List Byte) : State :=
  ((s.setInq rest).setCmdAddr (storeHigh b)).setPstate .awaitAddressLow

theorem advance_highByte {s : State} {b : Byte} {rest : List Byte} (hp : s.pstate = .awaitAddressHigh)
    (hq : s.inq = b :: rest) (ho : s.outqFull = false) : advance s = .next (s.takenHigh b rest) := by
  simp only [advance, fetch_highByte hp hq ho, stall]

/-- The low address byte completes an `r`, which then runs in the same invocation. -/
theorem advance_lowByte_read {s : State} {b : Byte} {rest : List Byte} (hp : s.pstate = .awaitAddressLow)
    (hq : s.inq = b :: rest) (ho : s.outqFull = false) (hop : s.cmdOp = opcRead) :
    advance s = exec (.r (orLow s.cmdAddr b)) (s.takenLow b rest) := by
  simp only [advance, fetch_lowByte hp hq ho, hop, decodePending_read]

/-- With its data byte there, the low address byte completes a `w`, which then runs in the same invocation. -/
theorem advance_lowByte_write {s : State} {b data : Byte} {rest : List Byte}
    (hp : s.pstate = .awaitAddressLow) (hq : s.inq = b :: data :: rest) (ho : s.outqFull = false)
    (hop : s.cmdOp = opcWrite) :
    advance s = exec (.w (orLow s.cmdAddr b) data) (s.takenLow b (data :: rest)) := by
  simp only [advance, fetch_lowByte hp hq ho, hop, decodePending_write, List.head?_cons, Option.map_some]

/-- The sequencer's two stores form the address the decoder forms (43_commands.md R146, R147). -/
theorem orLow_storeHigh (hi lo : Byte) : orLow (storeHigh hi) lo = assembleAddr hi lo := rfl

/-- Two steps from AwaitAddressHigh take the two address bytes; the second is an invocation. -/
theorem run_two_highByte {s : State} {hi : Byte} {rest : List Byte} (hc : s.cfg.wf = true)
    (ha : s.agenda = []) (ho : s.outqFull = false) (hp : s.pstate = .awaitAddressHigh)
    (hq : s.inq = hi :: rest) :
    Host.Core.run Sys2Proof.core 2 s = advance (s.takenHigh hi rest) := by
  have hstep : step s = .next (s.takenHigh hi rest) := by
    rw [step_of_nil hc ha, advance_highByte hp hq ho]
  rw [run_succ_of_next hstep, run_one, step_of_nil (by simpa using hc) (by simpa using ha)]

/-! ### `r` and `w` with their guards open -/

theorem exec_r_of_ready {a : Addr} {s : State} (ho : s.outqFull = false) (hu : s.quiet = true) :
    exec (.r a) s = .next ((readByte a s).2.reply (readByte a s).1) := by
  simp [exec, execR, ho, whenQuiet_of_quiet hu]

theorem exec_w_of_ready {a : Addr} {v front : Byte} {rest : List Byte} {s : State}
    (hq : s.inq = front :: rest) (ho : s.outqFull = false) (hu : s.quiet = true)
    (hb : 1 ≤ s.cfg.pollBound) : exec (.w a v) s = .next (writePollRead a v (s.setInq rest)) := by
  simp [exec, execW, hq, ho, whenQuiet_of_quiet hu, whenBound_of_pos hb]

theorem pollBound_pos_of_wf {c : Config} (h : c.wf = true) : 1 ≤ c.pollBound := by
  simp only [Config.wf, Bool.and_eq_true, decide_eq_true_eq] at h
  exact h.2

/-- POLL presents read cycles at the masked address and no other event. -/
theorem poll_trace (a : Addr) (expected : Byte) (s : State) :
    ∃ bs : List Byte, (poll a expected s).2.trace = s.trace ++ bs.map (.rd (maskAddr a)) := by
  have hread : ∀ t : State, (∃ bs : List Byte, t.trace = s.trace ++ bs.map (.rd (maskAddr a))) →
      ∃ bs : List Byte, (pollRead a t).trace = s.trace ++ bs.map (.rd (maskAddr a)) := by
    rintro t ⟨bs, ht⟩
    obtain ⟨_, _, htr, _, _⟩ := pollRead_spec a t
    exact ⟨bs ++ [t.answer (maskAddr a)], by simp [htr, ht]⟩
  exact pollLoop_keeps hread _ (s := s.setPollIter 0) ⟨[], by simp⟩

/-- `w` presents one write cycle at the masked address, then read cycles at it (43_commands.md R151). -/
theorem writePollRead_trace (a : Addr) (v : Byte) (s : State) :
    ∃ bs : List Byte,
      (writePollRead a v s).trace = s.trace ++ .wr (maskAddr a) v :: bs.map (.rd (maskAddr a)) := by
  obtain ⟨bs, hpoll⟩ := poll_trace a v (writeByte a v s)
  exact ⟨bs ++ [(poll a v (writeByte a v s)).2.answer (maskAddr a)], by simp [writePollRead, hpoll]⟩

/-! ### The address operand -/

/-- The state after both address bytes are taken (43_commands.md R146, R147). -/
abbrev State.takenAddress (s : State) (hi lo : Byte) (rest : List Byte) : State :=
  (s.takenHigh hi (lo :: rest)).takenLow lo rest

section
variable {s : State} {hi lo data : Byte} {rest : List Byte}
variable (hc : s.cfg.wf = true) (ha : s.agenda = []) (hu : s.quiet = true) (ho : s.outqFull = false)
  (hp : s.pstate = .awaitAddressHigh)
include hc ha hu ho hp

/-- The two invocations that take the address bytes of an `r` end in its read at the address they form. -/
theorem run_two_read (hop : s.cmdOp = opcRead) (hq : s.inq = hi :: lo :: rest) :
    Host.Core.run Sys2Proof.core 2 s =
      .next ((readByte (assembleAddr hi lo) (s.takenAddress hi lo rest)).2.reply
        (readByte (assembleAddr hi lo) (s.takenAddress hi lo rest)).1) := by
  have hlow : advance (s.takenHigh hi (lo :: rest)) =
      exec (.r (assembleAddr hi lo)) (s.takenAddress hi lo rest) := advance_lowByte_read rfl rfl ho hop
  exact (run_two_highByte hc ha ho hp hq).trans (hlow.trans (exec_r_of_ready ho hu))

/-- The two invocations that take the address bytes of a `w`, its data byte there, end in its bus cycles at
the address they form. -/
theorem run_two_write (hop : s.cmdOp = opcWrite) (hq : s.inq = hi :: lo :: data :: rest) :
    Host.Core.run Sys2Proof.core 2 s =
      .next (writePollRead (assembleAddr hi lo) data ((s.takenAddress hi lo (data :: rest)).setInq rest)) := by
  have hlow : advance (s.takenHigh hi (lo :: data :: rest)) =
      exec (.w (assembleAddr hi lo) data) (s.takenAddress hi lo (data :: rest)) :=
    advance_lowByte_write rfl rfl ho hop
  exact (run_two_highByte hc ha ho hp hq).trans
    (hlow.trans (exec_w_of_ready rfl ho hu (pollBound_pos_of_wf hc)))

end

/-- Settles O5: the decoder and the sequencer form the same address, and the cycles of `r` and `w` present it
masked. -/
theorem addressOperandIsBigEndian : Obligations.AddressOperandIsBigEndian := by
  intro hi lo data
  dsimp only
  rw [← assembleAddr_append, maskAddr_eq]
  refine ⟨rfl, rfl, rfl, fun s rest hc ha hu ho hp => ⟨fun hop hq => ?_, fun hop hq => ?_⟩⟩
  · exact ⟨_, _, run_two_read hc ha hu ho hp hop hq, by simp [orLow_storeHigh], by simp,
      readByte_trace _ _⟩
  · obtain ⟨bs, htrace⟩ := writePollRead_trace (assembleAddr hi lo) data
      ((s.takenAddress hi lo (data :: rest)).setInq rest)
    refine ⟨_, bs.map (.rd (maskAddr (assembleAddr hi lo))), run_two_write hc ha hu ho hp hop hq,
      by simp [writePollRead, orLow_storeHigh], by simp [writePollRead], htrace, fun ev hev => ?_⟩
    obtain ⟨b, _, rfl⟩ := List.mem_map.mp hev
    exact ⟨b, rfl⟩

end Sys2Proof.Machine
end

section
/-! Proofs for 40_bus_cycles.md: bit 15 of the address (R103), and the write cycles of a protection sequence
(R102, 42_protection.md R130, R131). -/

namespace Sys2Proof.Machine

/-! ### Bit 15 of the address -/

/-- READ_BYTE depends on its address through the mask alone: pins, `TRACE` and result (R103). -/
theorem exec_readByte_congr {a b : Addr} (h : maskAddr a = maskAddr b) (s : State) :
    exec (.readByte a) s = exec (.readByte b) s := by
  simp only [exec, execReadByte, readByte, h]

/-- WRITE_BYTE depends on its address through the mask alone (R103). -/
theorem exec_writeByte_congr {a b : Addr} (h : maskAddr a = maskAddr b) (v : Byte) (s : State) :
    exec (.writeByte a v) s = exec (.writeByte b v) s := by
  simp only [exec, execWriteByte, writeByte, h]

/-- Settles O28: both bus cycles see the address through the mask, which drops bit 15. -/
theorem addressBit15HasNoEffect : Obligations.AddressBit15HasNoEffect :=
  ⟨fun address => (maskAddr_eq address).symm,
    fun address s => ⟨exec_readByte_congr (maskAddr_and address).symm s,
      exec_readByte_congr (maskAddr_or address).symm s⟩,
    fun address v s => ⟨exec_writeByte_congr (maskAddr_and address).symm v s,
      exec_writeByte_congr (maskAddr_or address).symm v s⟩,
    rfl, rfl⟩

/-! ### The writes of a sequence -/

/-- WRITE_BYTE adds the eleven levels of its primitives to the pin record, the last of them idle (R102). -/
theorem writeByte_pins (a : Addr) (v : Byte) {s : State} (h : s.bus.idle = true) :
    ∃ l, (writeByte a v s).pinTrace = s.pinTrace ++ l ∧ l.length = 11 ∧
      ∃ b, l[10]? = some b ∧ b.idle = true := by
  rw [writeByte_state]
  exact ⟨_, rfl, rfl, _, rfl, write_cycle_idle h⟩

/-- A sequence adds eleven levels to the pin record for each write, the last of the eleven idle (R102). -/
theorem runSequence_pins (i : BitVec 3) (ws : List (Addr × Byte)) {s : State} (h : s.bus.idle = true) :
    ∃ l, (runSequence i ws s).pinTrace = s.pinTrace ++ l ∧ l.length = 11 * ws.length ∧
      ∀ j, j < ws.length → ∃ b, l[11 * j + 10]? = some b ∧ b.idle = true := by
  induction ws generalizing i s with
  | nil => exact ⟨[], (List.append_nil _).symm, rfl, nofun⟩
  | cons w ws ih =>
    obtain ⟨first, hfirst, hlen, hlast⟩ := writeByte_pins w.1 w.2 (s := s.setSeqIdx i) h
    obtain ⟨rest, hrest, hrestlen, hidle⟩ := ih (i + 1) (writeByte_idle (s := s.setSeqIdx i) h)
    refine ⟨first ++ rest, ?_, ?_, ?_⟩
    · rw [runSequence, hrest, hfirst, List.append_assoc, State.setSeqIdx_pinTrace]
    · rw [List.length_append, List.length_cons]; omega
    · rintro (_ | j) hj
      · rwa [List.getElem?_append_left (by omega)]
      · rw [List.getElem?_append_right (by omega), show 11 * (j + 1) + 10 - first.length = 11 * j + 10 by omega]
        exact hidle j (Nat.lt_of_succ_lt_succ hj)

/-- `SEQ_IDX` ends at the index of the sequence's last write (42_protection.md R130, R131). -/
theorem runSequence_seqIdx (i : BitVec 3) (w : Addr × Byte) (ws : List (Addr × Byte)) (s : State) :
    (runSequence i (w :: ws) s).seqIdx = i + BitVec.ofNat 3 ws.length := by
  induction ws generalizing i w s with
  | nil => simp [runSequence]
  | cons w' ws ih =>
    rw [runSequence, ih, List.length_cons, Nat.add_comm, BitVec.ofNat_add, BitVec.add_assoc]
    rfl

/-- The device after the write cycles of a sequence. -/
def Device.afterWrites (dev : Device) (ws : List (Addr × Byte)) : Device :=
  ws.foldl (fun d w => d.afterWrite (maskAddr w.1) w.2) dev

theorem runSequence_device (i : BitVec 3) (ws : List (Addr × Byte)) (s : State) :
    (runSequence i ws s).device = s.device.afterWrites ws := by
  induction ws generalizing i s with
  | nil => rfl
  | cons w ws ih => simp [runSequence, ih, Device.afterWrites]

/-- A sequence of writes changes no byte at an address that none of them names. -/
theorem Device.afterWrites_peek_other {ws : List (Addr × Byte)} {x : DevAddr}
    (h : ∀ w ∈ ws, x ≠ maskAddr w.1) (dev : Device) : (dev.afterWrites ws).peek x = dev.peek x := by
  induction ws generalizing dev with
  | nil => rfl
  | cons w ws ih =>
    obtain ⟨hw, hws⟩ := List.forall_mem_cons.mp h
    exact (ih hws _).trans (Device.afterWrite_peek_other hw)

/-- A sequence of writes reaches five fields of the state and no other; it draws no answer of the device. -/
theorem runSequence_only (i : BitVec 3) (ws : List (Addr × Byte)) (s : State) :
    ∃ b p tr dev j, runSequence i ws s =
      { s with bus := b, pinTrace := p, trace := tr, device := dev, seqIdx := j } := by
  induction ws generalizing i s with
  | nil => exact ⟨_, _, _, _, _, rfl⟩
  | cons w ws ih =>
    obtain ⟨b, p, tr, dev, j, h⟩ := ih (i + 1) (writeByte w.1 w.2 (s.setSeqIdx i))
    exact ⟨b, p, tr, dev, j, h⟩

/-! ### PROT_ENABLE and PROT_DISABLE -/

/-- The runner's work on a whole column of 30_encoding.md R93. -/
def State.runColumn (s : State) (ws : List (Addr × Byte)) : State :=
  (runSequence 0 ws (s.setRunner .sWrite)).setRunner .sIdle

theorem protEnable_eq_runColumn (s : State) : protEnable s = s.runColumn enableSequence := rfl

theorem protDisable_eq_runColumn (s : State) : protDisable s = s.runColumn disableSequence := rfl

theorem exec_protEnable_of_quiet {s : State} (h : s.quiet = true) :
    exec .protEnable s = .next (s.runColumn enableSequence) := whenQuiet_of_quiet h

theorem exec_protDisable_of_quiet {s : State} (h : s.quiet = true) :
    exec .protDisable s = .next (s.runColumn disableSequence) := whenQuiet_of_quiet h

/-- Both columns write to the two magic addresses alone, which pass the mask unchanged (R103). -/
theorem sequence_addresses : ∀ w ∈ enableSequence ++ disableSequence,
    maskAddr w.1 = 0x5555 ∨ maskAddr w.1 = 0x2AAA := by
  simp [enableSequence, disableSequence, maskAddr]

section

variable (s : State) (ws : List (Addr × Byte))

theorem runColumn_trace : (s.runColumn ws).trace = s.trace ++ ws.map (fun w => .wr (maskAddr w.1) w.2) :=
  runSequence_trace 0 ws (s.setRunner .sWrite)

theorem runColumn_device : (s.runColumn ws).device = s.device.afterWrites ws :=
  runSequence_device 0 ws (s.setRunner .sWrite)

theorem runColumn_seqIdx (w : Addr × Byte) : (s.runColumn (w :: ws)).seqIdx = BitVec.ofNat 3 ws.length :=
  (runSequence_seqIdx 0 w ws (s.setRunner .sWrite)).trans (BitVec.zero_add _)

variable {s ws}

theorem runColumn_idle (h : s.quiet = true) : (s.runColumn ws).bus.idle = true :=
  runSequence_idle (s := s.setRunner .sWrite) ((quiet_iff s).mp h).1

theorem runColumn_pins (h : s.quiet = true) :
    ∃ l, (s.runColumn ws).pinTrace = s.pinTrace ++ l ∧ l.length = 11 * ws.length ∧
      ∀ j, j < ws.length → ∃ b, l[11 * j + 10]? = some b ∧ b.idle = true :=
  runSequence_pins 0 ws (s := s.setRunner .sWrite) ((quiet_iff s).mp h).1

/-- What a column leaves alone, from a quiet state: all but the five fields named. -/
theorem runColumn_frame (h : s.quiet = true) :
    { s.runColumn ws with
      bus := s.bus, pinTrace := s.pinTrace, trace := s.trace, device := s.device, seqIdx := s.seqIdx } = s := by
  obtain ⟨_, _, hrunner⟩ := (quiet_iff s).mp h
  obtain ⟨b, p, tr, dev, j, hrun⟩ := runSequence_only 0 ws (s.setRunner .sWrite)
  rw [State.runColumn, hrun]
  cases s
  cases hrunner
  rfl

/-- A column leaves every byte outside the two magic addresses alone. -/
theorem runColumn_peek (hws : ws ⊆ enableSequence ++ disableSequence) {x : DevAddr} (h₁ : x ≠ 0x5555)
    (h₂ : x ≠ 0x2AAA) : (s.runColumn ws).device.peek x = s.device.peek x := by
  rw [runColumn_device]
  refine Device.afterWrites_peek_other (fun w hw hx => ?_) s.device
  rcases sequence_addresses w (hws hw) with h | h
  · exact h₁ (hx.trans h)
  · exact h₂ (hx.trans h)

end

/-- Settles O26: the column of PROT_ENABLE run whole. -/
theorem protEnableIssuesThreeWrites : Obligations.ProtEnableIssuesThreeWrites := fun s hq =>
  ⟨s.runColumn enableSequence, exec_protEnable_of_quiet hq, runColumn_trace s enableSequence,
    runColumn_seqIdx s _ _, runColumn_idle hq, runColumn_pins hq, runColumn_device s enableSequence,
    fun _ => runColumn_peek (List.subset_append_left _ _), runColumn_frame hq⟩

/-- Settles O27: the column of PROT_DISABLE run whole. -/
theorem protDisableIssuesSixWrites : Obligations.ProtDisableIssuesSixWrites := fun s hq =>
  ⟨s.runColumn disableSequence, exec_protDisable_of_quiet hq, runColumn_trace s disableSequence,
    runColumn_seqIdx s _ _, runColumn_idle hq, runColumn_pins hq, runColumn_device s disableSequence,
    fun _ => runColumn_peek (List.subset_append_right _ _), runColumn_frame hq⟩

end Sys2Proof.Machine
end

section
/-! Proofs for 41_poller.md: a POLL that runs out (R124), and the `w` that discards its result. -/

namespace Sys2Proof.Machine

/-- A POLL that no answer within the bound matches makes every read the bound allows (41_poller.md R120). -/
theorem poll_of_not_mem_answers {a : Addr} {expected : Byte} {s : State} (hb : 1 ≤ s.cfg.pollBound)
    (hno : expected ∉ State.answers (maskAddr a) s.cfg.pollBound s) :
    (poll a expected s).2 =
      ((pollRead a)^[s.cfg.pollBound] (s.setPollIter 0)).setPoller .pIdle := by
  obtain ⟨k, _, hk, hpoll, _, hmatch | rfl⟩ := poll_reads a expected s hb
  · obtain ⟨_, _, _, hsplit⟩ := pollRead_iterate a k s
    have hall := hsplit (s.cfg.pollBound - k)
    rw [Nat.add_sub_cancel' hk] at hall
    exact absurd (hall ▸ List.mem_append_left _ (List.mem_of_getElem? hmatch)) hno
  · exact hpoll

/-- A POLL that runs out leaves the bound in `POLL_ITER`, returns the last answer it read, and the next read
gets the answer after that (41_poller.md R124). -/
theorem poll_exhausted {a : Addr} {expected : Byte} {s : State} (hb : 1 ≤ s.cfg.pollBound)
    (hno : expected ∉ State.answers (maskAddr a) s.cfg.pollBound s) :
    (poll a expected s).2.pollIter = s.cfg.pollBound ∧
      (State.answers (maskAddr a) s.cfg.pollBound s).getLast? = some (poll a expected s).1 ∧
      (State.answers (maskAddr a) (s.cfg.pollBound + 1) s).getLast? =
        some ((poll a expected s).2.answer (maskAddr a)) := by
  have hstart : ∀ n, State.answers (maskAddr a) n s = State.answers (maskAddr a) n (s.setPollIter 0) :=
    fun n => answers_congr n rfl rfl rfl
  obtain ⟨_, hiter, hlast, hnext⟩ := pollRead_iterate a s.cfg.pollBound (s.setPollIter 0)
  rw [poll_result, poll_of_not_mem_answers hb hno, hstart, hstart, hnext 1]
  refine ⟨hiter.trans (Nat.zero_add _), ?_, List.getLast?_concat⟩
  rw [List.getLast?_eq_getElem?, answers_length]
  exact hlast hb

theorem exec_poll_of_ready {a : Addr} {expected : Byte} {s : State} (hu : s.quiet = true)
    (hb : 1 ≤ s.cfg.pollBound) :
    exec (.poll a expected) s = .next ((poll a expected s).2.setOpResult (poll a expected s).1) :=
  (whenQuiet_of_quiet hu).trans (whenBound_of_pos hb)

/-- `w` replies with the byte its last read samples after the poll, whatever the poll returned
(43_commands.md R151). -/
theorem writePollRead_outq (a : Addr) (v : Byte) (s : State) :
    (writePollRead a v s).outq = s.outq ++ [(poll a v (writeByte a v s)).2.answer (maskAddr a)] := by
  simp [writePollRead, readByte_result]

theorem writePollRead_pstate (a : Addr) (v : Byte) (s : State) :
    (writePollRead a v s).pstate = .awaitOpcode := rfl

/-- After the write cycle of a `w` the device answers as after the write event alone. -/
theorem answers_writeByte (a : Addr) (v : Byte) (rest : List Byte) (n : Nat) (s : State) :
    State.answers (maskAddr a) n (writeByte a v (s.setInq rest)) =
      State.answers (maskAddr a) n (s.emitWrite (maskAddr a) v) :=
  answers_congr n rfl rfl rfl

/-- Settles O25: a poll without a match makes all its reads, so it returns the last answer, and the read of
`w` that follows it gets the next one. -/
theorem exhaustedPollGivesTheLastAnswer : Obligations.ExhaustedPollGivesTheLastAnswer := by
  intro address expected s hu hb
  dsimp only
  rw [maskAddr_eq]
  refine ⟨fun hno => ?_, fun rest hq ho hno => ?_⟩
  · obtain ⟨hiter, hlast, _⟩ := poll_exhausted hb hno
    exact ⟨_, exec_poll_of_ready hu hb, hiter, hlast⟩
  · rw [← answers_writeByte address expected rest] at hno ⊢
    obtain ⟨_, _, hnext⟩ := poll_exhausted (s := writeByte address expected (s.setInq rest)) hb hno
    exact ⟨_, _, exec_w_of_ready hq ho hu hb, writePollRead_pstate _ _ _, writePollRead_outq _ _ _, hnext⟩

end Sys2Proof.Machine
end

section
/-! Proofs for 43_commands.md: the gate of phase A and what it takes by `PSTATE` (R141, R145 to R147), and the
commands `w`, `e` and `d` whole (R151, R143, R144). -/

namespace Sys2Proof.Machine

/-! ### Invocations, by what the fetch gives -/

theorem advance_of_fetch_none {s t : State} (hf : fetch s = (t, none)) : advance s = .next t := by
  simp only [advance, hf, stall]

theorem advance_of_fetch_some {s t : State} {i : Instr} (hf : fetch s = (t, some i)) :
    advance s = exec i t := by
  rw [advance, hf]

/-- An invocation that finds an opcode other than `'r'` and `'w'` in Execute does nothing in phase B
(43_commands.md R152). -/
theorem advance_of_fetch_other {s t : State} {op : Byte} {a : Addr} {front : Option Byte}
    (hf : fetch s = (t, decodePending op a front)) (h₁ : op ≠ opcRead) (h₂ : op ≠ opcWrite) :
    advance s = .next t := by
  rcases decodePending_other h₁ h₂ a front with hnone | hunk
  · exact advance_of_fetch_none (hf.trans (by rw [hnone]))
  · exact advance_of_fetch_some (hf.trans (by rw [hunk]))

/-! ### The gate of phase A -/

theorem gateA_closed {s : State} (h : s.pstate = .execute ∨ s.inq = [] ∨ s.outqFull = true) :
    s.gateA = false := by
  rw [Bool.eq_false_iff, Ne, gateA_eq_true]
  rintro ⟨hp, hq, ho⟩
  rcases h with h | h | h
  · exact hp h
  · exact hq h
  · exact Bool.false_ne_true (ho.symm.trans h)

/-- In an Await state with the gate closed, the invocation changes nothing (R141). -/
theorem step_of_gate_closed {s : State} (hc : s.cfg.wf = true) (ha : s.agenda = [])
    (hp : s.pstate ≠ .execute) (hg : s.gateA = false) : step s = .next s := by
  rw [step_of_nil hc ha]
  refine advance_of_fetch_none ?_
  rw [fetch_closed hg, State.pending, if_neg hp]

/-- Acting on the byte taken takes no further byte. -/
theorem takeByte_inq (b : Byte) (s : State) : (takeByte b s).1.inq = s.inq := by
  unfold takeByte
  cases s.pstate with
  | awaitOpcode => cases opcodeClass b <;> rfl
  | _ => rfl

/-- An invocation from an open gate takes one byte; a `w` that the low address byte completes takes its data
byte too (R141, R151). -/
theorem advance_inq {s t : State} {b : Byte} {rest : List Byte} (hp : s.pstate ≠ .execute)
    (hq : s.inq = b :: rest) (ho : s.outqFull = false) (h : advance s = .next t) :
    t.inq = rest ∨ (s.pstate = .awaitAddressLow ∧ s.cmdOp = opcWrite ∧ ∃ data, rest = data :: t.inq) := by
  have tail : ∀ {b' rest'}, s.inq = b' :: rest' → rest' = rest := fun h' =>
    (List.cons.inj (h'.symm.trans hq)).2
  cases advance_case h with
  | stall hg => exact absurd (gateA_open hp hq ho) (by simp [hg])
  | opcode b' rest' _ hq' => exact .inl (tail hq')
  | highByte b' rest' _ hq' => exact .inl (tail hq')
  | lowByte b' rest' _ hq' => exact .inl (tail hq')
  | protOn rest' _ hq' => exact .inl (by simpa using tail hq')
  | protOff rest' _ hq' => exact .inl (by simpa using tail hq')
  | read u hf =>
    cases hf with
    | pending hx => exact absurd hx hp
    | taken b' rest' _ hq' => exact .inl (by simpa using tail hq')
  | write u data more hf hop hd =>
    cases hf with
    | pending hx => exact absurd hx hp
    | taken b' rest' hlow hq' =>
      have hrest : rest = data :: more := (tail hq').symm.trans hd
      exact .inr ⟨hlow, hop, data, by simpa [writePollRead] using hrest⟩

/-- Settles O7: a closed gate takes nothing, an open one hands `takeByte` exactly the front byte, and the
inversion of the invocation leaves `w` alone with a second byte. -/
theorem phaseAGate : Obligations.PhaseAGate := by
  refine fun s => ⟨fun h => phaseA_closed (gateA_closed h),
    fun hc ha hp h => step_of_gate_closed hc ha hp (gateA_closed (.inr h)), fun b rest hp hq ho => ?_⟩
  have hopen : phaseA s = takeByte b (s.setInq rest) := phaseA_open hq (gateA_open hp hq ho)
  refine ⟨hopen, by rw [hopen, takeByte_inq, State.setInq_inq], fun t ha h => ?_⟩
  obtain ⟨hc, _⟩ := step_next h
  rw [step_of_nil hc ha] at h
  exact advance_inq hp hq ho h

/-! ### What phase A takes -/

/-- Settles O8: the fetch of an opcode byte that is no whole command. -/
theorem otherOpcodeIsStored : Obligations.OtherOpcodeIsStored := fun _ _ _ hc ha hp hq ho h₁ h₂ =>
  (step_of_nil hc ha).trans (advance_of_fetch_none (fetch_opcode hp hq ho h₁ h₂))

/-- The store of the high address byte leaves bits 7:0 zero (R146). -/
theorem storeHigh_append (b : Byte) : storeHigh b = (b ++ (0 : Byte) : BitVec (8 + 8)) := by
  rw [← assembleAddr_append, assembleAddr, storeHigh]
  simp

/-- Settles O9: the fetch of a high address byte, whose store is that byte over eight zero bits. -/
theorem highByteReplacesAddress : Obligations.HighByteReplacesAddress := by
  intro s b rest hc ha hp hq ho
  rw [step_of_nil hc ha, ← storeHigh_append]
  exact advance_highByte hp hq ho

/-- A `w` whose data byte is late waits in Execute (R151). -/
theorem advance_lowByte_noData {s : State} {b : Byte} (hp : s.pstate = .awaitAddressLow)
    (hq : s.inq = [b]) (ho : s.outqFull = false) (hop : s.cmdOp = opcWrite) :
    advance s = .next (s.takenLow b []) := by
  refine advance_of_fetch_none ?_
  rw [fetch_lowByte hp hq ho, hop, decodePending_write, List.head?_nil, Option.map_none]

/-- Settles O10: the fetch of a low address byte, then phase B by the stored opcode. -/
theorem lowByteCompletesAddress : Obligations.LowByteCompletesAddress := by
  intro s b rest hc ha hp hq ho
  rw [step_of_nil hc ha]
  refine ⟨fun hi hhigh => ?_, fun hop => ?_, ?_, ?_, fun h₁ h₂ => ?_⟩
  · rw [← assembleAddr_append, ← orLow_storeHigh]
    exact congrArg (orLow · b) hhigh
  · exact (advance_lowByte_read hp hq ho hop :)
  · rintro hop data more rfl
    exact (advance_lowByte_write hp hq ho hop :)
  · rintro hop rfl
    exact advance_lowByte_noData hp hq ho hop
  · exact advance_of_fetch_other (fetch_lowByte hp hq ho) h₁ h₂

/-! ### The poll of a `w` -/

/-- What POLL did between `s` and `t`, in terms of the device's answers at `a` (41_poller.md R120, R121): `k`
reads, the last of them the first match or the last the bound allows. -/
structure PollRun (a : DevAddr) (expected : Byte) (s t : State) (k : Nat) : Prop where
  one_le : 1 ≤ k
  le_bound : k ≤ s.cfg.pollBound
  before : ∀ j, j + 1 < k → (s.answers a k)[j]? ≠ some expected
  stopped : (s.answers a k)[k - 1]? = some expected ∨ k = s.cfg.pollBound
  trace : t.trace = s.trace ++ (s.answers a k).map (.rd a)
  pollIter : t.pollIter = k
  pollObs : (s.answers a k)[k - 1]? = some t.pollObs
  device : t.device = Device.afterRead^[k] s.device
  /-- The next read cycle gets the answer after POLL's. -/
  answers_succ : s.answers a (k + 1) = s.answers a k ++ [t.answer a]

theorem pollRead_iterate_device (a : Addr) (k : Nat) (s : State) :
    ((pollRead a)^[k] s).device = Device.afterRead^[k] s.device :=
  Function.Semiconj.iterate_right (f := State.device) (fun _ => rfl) k s

theorem poll_run (a : Addr) (expected : Byte) {s : State} (hb : 1 ≤ s.cfg.pollBound) :
    ∃ k, PollRun (maskAddr a) expected s (poll a expected s).2 k := by
  obtain ⟨k, hk, hle, hpoll, hbefore, hstop⟩ := poll_reads a expected s hb
  obtain ⟨htrace, hiter, hobs, hnext⟩ := pollRead_iterate a k (s.setPollIter 0)
  have hstart : ∀ n, (s.setPollIter 0).answers (maskAddr a) n = s.answers (maskAddr a) n :=
    fun n => answers_congr n rfl rfl rfl
  simp only [hstart] at htrace hobs hnext
  refine ⟨k, hk, hle, hbefore, hstop, ?_, ?_, ?_, ?_, ?_⟩ <;> rw [hpoll]
  · exact htrace
  · exact hiter.trans (Nat.zero_add k)
  · exact hobs hk
  · exact pollRead_iterate_device a k (s.setPollIter 0)
  · exact hnext 1

namespace PollRun

variable {a : DevAddr} {expected : Byte} {s t : State} {k : Nat} (h : PollRun a expected s t k)
include h

/-- The answer of the read after POLL comes behind POLL's own. -/
theorem getElem?_answers_succ {j : Nat} (hj : j < k) :
    (s.answers a (k + 1))[j]? = (s.answers a k)[j]? := by
  rw [h.answers_succ, List.getElem?_append_left (by rwa [answers_length])]

theorem getElem?_answers_last : (s.answers a (k + 1))[k]? = some (t.answer a) := by
  rw [h.answers_succ, List.getElem?_append_right (by rw [answers_length]), answers_length, Nat.sub_self]
  rfl

end PollRun

theorem Device.afterRead_iterate_peek (k : Nat) (dev : Device) (x : DevAddr) :
    (Device.afterRead^[k] dev).peek x = dev.peek x := by
  induction k with
  | zero => rfl
  | succ k ih => rw [Function.iterate_succ_apply', Device.afterRead_peek, ih]

/-! ### The bus cycles of a `w` -/

/-- `t` with every field that the bus cycles of a `w` and its reply reach put back to what `s` has. -/
def State.putBack (s t : State) : State :=
  { t with
    outq := s.outq, pstate := s.pstate, trace := s.trace, bus := s.bus, pinTrace := s.pinTrace
    device := s.device, draw := s.draw, pollIter := s.pollIter, pollObs := s.pollObs, poller := s.poller }

theorem putBack_pollFrame (s : State) : PollFrame s.putBack := .of_unread fun _ _ _ _ _ _ _ _ _ => rfl

theorem putBack_reply (s t : State) (b : Byte) : s.putBack (t.reply b) = s.putBack t := rfl

/-- Where the poller's control state is back, the nine fields the statement of R151 names are all of them. -/
theorem putBack_eq {s t : State} (h : t.poller = s.poller) :
    s.putBack t =
      { t with
        outq := s.outq, pstate := s.pstate, trace := s.trace, bus := s.bus, pinTrace := s.pinTrace
        device := s.device, draw := s.draw, pollIter := s.pollIter, pollObs := s.pollObs } := by
  rw [State.putBack, ← h]

theorem putBack_writePollRead (a : Addr) (v : Byte) (s : State) : s.putBack (writePollRead a v s) = s := by
  have hframe := putBack_pollFrame s
  calc s.putBack (writePollRead a v s)
    _ = s.putBack (readByte a (poll a v (writeByte a v s)).2).2 := putBack_reply _ _ _
    _ = s.putBack (poll a v (writeByte a v s)).2 := readByte_frame hframe.toDriverFrame _ _
    _ = s.putBack (writeByte a v s) := poll_frame hframe _ _ _
    _ = s.putBack s := writeByte_frame hframe.toDriverFrame _ _ _
    _ = s := rfl

/-- What the bus cycles of a `w` and its reply leave alone, from a quiet state: all but the nine fields named. -/
theorem writePollRead_frame (a : Addr) (v : Byte) {s : State} (h : s.quiet = true) :
    { writePollRead a v s with
      outq := s.outq, pstate := s.pstate, trace := s.trace, bus := s.bus, pinTrace := s.pinTrace
      device := s.device, draw := s.draw, pollIter := s.pollIter, pollObs := s.pollObs } = s := by
  obtain ⟨_, hpoller, _⟩ := (quiet_iff s).mp h
  have hidle : (writePollRead a v s).poller = s.poller := by simp [writePollRead, hpoller]
  exact (putBack_eq hidle).symm.trans (putBack_writePollRead a v s)

theorem writePollRead_idle {a : Addr} {v : Byte} {s : State} (h : s.bus.idle = true) :
    (writePollRead a v s).bus.idle = true :=
  readByte_idle (poll_idle (writeByte_idle h))

theorem exec_w_of_stall {a : Addr} {v : Byte} {s : State} (h : s.inq = [] ∨ s.outqFull = true) :
    exec (.w a v) s = .next s := by
  cases hq : s.inq with
  | nil => simp [exec, execW, hq, stall]
  | cons front rest =>
    have ho : s.outqFull = true := h.resolve_left (by simp [hq])
    simp [exec, execW, hq, ho, stall]

/-- The write, the poll's `k` reads and the final read, in terms of the device's answers (R151). -/
theorem writePollRead_cycles {a : Addr} {v : Byte} {s : State} {k : Nat}
    (h : PollRun (maskAddr a) v (writeByte a v s) (poll a v (writeByte a v s)).2 k) :
    (writePollRead a v s).trace =
        s.trace ++ .wr (maskAddr a) v ::
          ((writeByte a v s).answers (maskAddr a) (k + 1)).map (.rd (maskAddr a)) ∧
      (writePollRead a v s).pollIter = k ∧
      some (writePollRead a v s).pollObs = ((writeByte a v s).answers (maskAddr a) (k + 1))[k - 1]? ∧
      (writePollRead a v s).device = Device.afterRead^[k + 1] (s.device.afterWrite (maskAddr a) v) := by
  have hk := h.one_le
  refine ⟨?_, ?_, ?_, ?_⟩
  · simp [writePollRead, h.answers_succ, h.trace, readByte_result]
  · simpa [writePollRead] using h.pollIter
  · rw [h.getElem?_answers_succ (by omega), h.pollObs]
    simp [writePollRead]
  · simp [writePollRead, h.device, Function.iterate_succ_apply']

/-- Settles O17: the bus cycles of `w` by what its poll did, and the invocations that run it or wait. -/
theorem writeCommandWritesPollsAndReplies : Obligations.WriteCommandWritesPollsAndReplies := by
  refine ⟨fun address data s => ⟨exec_w_of_stall, fun rest hq ho hu hb => ?_⟩,
    fun s lo rest hc ha hop => ?_⟩
  · obtain ⟨k, hrun⟩ := poll_run address data (s := writeByte address data (s.setInq rest)) hb
    obtain ⟨htrace, hiter, hobs, hdevice⟩ := writePollRead_cycles hrun
    have hk := hrun.one_le
    dsimp only
    rw [maskAddr_eq]
    simp only [← answers_writeByte address data rest]
    refine ⟨writePollRead address data (s.setInq rest), k, exec_w_of_ready hq ho hu hb, hk, hrun.le_bound,
      htrace, fun j hj => ?_, ?_, ⟨_, hrun.getElem?_answers_last, writePollRead_outq _ _ _⟩,
      by simp [writePollRead], rfl, writePollRead_idle ((quiet_iff s).mp hu).1, hiter, hobs, hdevice,
      fun x hx => ?_, ?_⟩
    · rw [hrun.getElem?_answers_succ (by omega)]
      exact hrun.before j hj
    · rw [hrun.getElem?_answers_succ (by omega)]
      exact hrun.stopped
    · rw [hdevice, Device.afterRead_iterate_peek]
      exact Device.afterWrite_peek_other hx
    · exact congrArg (State.setInq · s.inq) (writePollRead_frame address data (s := s.setInq rest) hu)
  · rw [step_of_nil hc ha]
    refine ⟨fun hp ho hq => ⟨?_, ?_⟩, fun hp => ⟨fun hq => ?_, fun data more hq => ?_⟩⟩
    · rintro data more rfl
      exact (advance_lowByte_write hp hq ho hop :)
    · rintro rfl
      exact advance_lowByte_noData hp hq ho hop
    · exact advance_of_fetch_none (by rw [fetch_execute hp, hop, hq]; rfl)
    · exact advance_of_fetch_some (by rw [fetch_execute hp, hop, hq]; rfl)

/-! ### `e` and `d` -/

/-- The end of a command `e` or `d`: its column of 30_encoding.md R93 run, its acknowledgment enqueued. -/
abbrev State.runProtect (s : State) (column : List (Addr × Byte)) (ack : Byte) : State :=
  (s.runColumn column).reply ack

theorem exec_e_of_ready {s : State} (ho : s.outqFull = false) (hu : s.quiet = true) :
    exec .e s = .next (s.runProtect enableSequence ackProtOn) := by
  simp [exec, execE, ho, whenQuiet_of_quiet hu, protEnable_eq_runColumn]

theorem exec_d_of_ready {s : State} (ho : s.outqFull = false) (hu : s.quiet = true) :
    exec .d s = .next (s.runProtect disableSequence ackProtOff) := by
  simp [exec, execD, ho, whenQuiet_of_quiet hu, protDisable_eq_runColumn]

theorem runProtect_outq {s : State} {ws : List (Addr × Byte)} {ack : Byte} (h : s.quiet = true) :
    (s.runProtect ws ack).outq = s.outq ++ [ack] := by
  have houtq : (s.runColumn ws).outq = s.outq := by
    conv_rhs => rw [← runColumn_frame (ws := ws) h]
  exact congrArg (· ++ [ack]) houtq

/-- What a protection command leaves alone, from a quiet state with its opcode taken. -/
theorem runProtect_frame {s : State} {ws : List (Addr × Byte)} {ack : Byte} (h : s.quiet = true) :
    { s.runProtect ws ack with
      outq := s.outq, pstate := s.pstate, trace := s.trace, bus := s.bus, pinTrace := s.pinTrace
      device := s.device, seqIdx := s.seqIdx } = s :=
  congrArg (fun t => { t with outq := s.outq, pstate := s.pstate }) (runColumn_frame h)

section
variable {s : State} {rest : List Byte}
variable (hc : s.cfg.wf = true) (ha : s.agenda = []) (hp : s.pstate = .awaitOpcode)
include hc ha hp

theorem step_e (hq : s.inq = opcProtOn :: rest) (ho : s.outqFull = false) :
    step s = exec .e ((s.setInq rest).setCmdOp opcProtOn) :=
  (step_of_nil hc ha).trans (advance_of_fetch_some (fetch_protOn hp hq ho))

theorem step_d (hq : s.inq = opcProtOff :: rest) (ho : s.outqFull = false) :
    step s = exec .d ((s.setInq rest).setCmdOp opcProtOff) :=
  (step_of_nil hc ha).trans (advance_of_fetch_some (fetch_protOff hp hq ho))

/-- `OUTQ` full delays whatever the next opcode byte is (R141). -/
theorem step_awaitOpcode_full (ho : s.outqFull = true) : step s = .next s :=
  step_of_gate_closed hc ha (by simp [hp]) (gateA_closed (.inr (.inr ho)))

end

/-- An invocation that takes the opcode of a protection command and runs it whole (R143, R144). -/
theorem step_runs_protect {s : State} {rest : List Byte} {op ack : Byte} {i : Instr}
    {ws : List (Addr × Byte)} (hstep : step s = exec i ((s.setInq rest).setCmdOp op))
    (hexec : exec i ((s.setInq rest).setCmdOp op) =
      .next (((s.setInq rest).setCmdOp op).runProtect ws ack)) (hu : s.quiet = true) :
    ∃ t, step s = .next t ∧ t.inq = rest ∧ t.cmdOp = op ∧ t.pstate = .awaitOpcode ∧
      t.outq = s.outq ++ [ack] ∧ t.trace = s.trace ++ ws.map (fun w => .wr (maskAddr w.1) w.2) := by
  have hframe := runProtect_frame (s := (s.setInq rest).setCmdOp op) (ws := ws) (ack := ack) hu
  exact ⟨_, hstep.trans hexec, congrArg State.inq hframe, congrArg State.cmdOp hframe, rfl,
    runProtect_outq (s := (s.setInq rest).setCmdOp op) hu, runColumn_trace _ ws⟩

/-- A protection command with its opcode taken: its column run whole, then the acknowledgment (R143, R144). -/
theorem exec_runs_protect {s : State} {ack : Byte} {i : Instr} {w : Addr × Byte} {ws : List (Addr × Byte)}
    (hexec : exec i s = .next (s.runProtect (w :: ws) ack)) (hu : s.quiet = true)
    (hws : w :: ws ⊆ enableSequence ++ disableSequence) :
    ∃ t, exec i s = .next t ∧
      t.trace = s.trace ++ (w :: ws).map (fun w => .wr (maskAddr w.1) w.2) ∧ t.outq = s.outq ++ [ack] ∧
      t.pstate = .awaitOpcode ∧ t.bus.idle = true ∧ t.seqIdx = BitVec.ofNat 3 ws.length ∧
      t.device = s.device.afterWrites (w :: ws) ∧
      (∀ x, x ≠ 0x5555 → x ≠ 0x2AAA → t.device.peek x = s.device.peek x) ∧
      { t with
        outq := s.outq, pstate := s.pstate, trace := s.trace, bus := s.bus, pinTrace := s.pinTrace
        device := s.device, seqIdx := s.seqIdx } = s :=
  ⟨s.runProtect (w :: ws) ack, hexec, runColumn_trace s _, runProtect_outq hu, rfl, runColumn_idle hu,
    runColumn_seqIdx s ws w, runColumn_device s _, fun _ => runColumn_peek hws, runProtect_frame hu⟩

/-- Settles O18: the column of PROT_ENABLE run whole and acknowledged, in the invocation that fetches `e`. -/
theorem protectOnIssuesThreeWritesAndAcknowledges :
    Obligations.ProtectOnIssuesThreeWritesAndAcknowledges := by
  refine ⟨fun s ho hu => ?_, fun s rest hc ha hp hq =>
    ⟨step_awaitOpcode_full hc ha hp, step_e hc ha hp hq, fun ho hu => ?_⟩⟩
  · exact exec_runs_protect (exec_e_of_ready ho hu) hu (List.subset_append_left _ _)
  · exact step_runs_protect (step_e hc ha hp hq ho) (exec_e_of_ready ho hu) hu

/-- Settles O19: the column of PROT_DISABLE run whole and acknowledged, in the invocation that fetches `d`. -/
theorem protectOffIssuesSixWritesAndAcknowledges :
    Obligations.ProtectOffIssuesSixWritesAndAcknowledges := by
  refine ⟨fun s ho hu => ?_, fun s rest hc ha hp hq =>
    ⟨step_awaitOpcode_full hc ha hp, step_d hc ha hp hq, fun ho hu => ?_⟩⟩
  · exact exec_runs_protect (exec_d_of_ready ho hu) hu (List.subset_append_right _ _)
  · exact step_runs_protect (step_d hc ha hp hq ho) (exec_d_of_ready ho hu) hu

end Sys2Proof.Machine
end

section
/-! Proofs for 30_encoding.md: decoder and encoder are inverse on well-formed commands (sections 1 and 2), and the
words of the opcode table (section 3). -/

namespace Sys2Proof

/-- A command's encoding decodes to it, and the bytes after it are left (30_encoding.md R81, R87). -/
theorem decodeStream_encode {i : Instr} {bytes : List Byte} (hwf : i.wf = true)
    (h : encode i = .stream bytes) (rest : List Byte) : decodeStream (bytes ++ rest) = .ok (i, rest) := by
  cases i with
  | r a => cases h; exact congrArg (fun x => Except.ok (Instr.r x, rest)) (assembleAddr_bytes a)
  | w a v => cases h; exact congrArg (fun x => Except.ok (Instr.w x v, rest)) (assembleAddr_bytes a)
  | e | d => cases h; rfl
  | unk b a => cases h; simp [decodeStream, opcodeClass_of_wf_unk hwf]
  | readByte | writeByte | poll | protEnable | protDisable => cases h

/-- Settles O1: a command by its own decoding, an operation by its `OP_SEL` code. -/
theorem decodeEncodeAgree : Obligations.DecodeEncodeAgree := by
  refine fun i rest hwf => ⟨?_, fun bytes h => decodeStream_encode hwf h rest⟩
  cases hcode : encode i with
  | stream bytes =>
    have hdec := decodeStream_encode hwf hcode []
    rw [List.append_nil] at hdec
    rw [decode, hdec]
    rfl
  | port q =>
    cases i with
    | readByte | writeByte | poll | protEnable | protDisable => cases hcode; rfl
    | r | w | e | d | unk => cases hcode

/-- `unk` with an opcode in the last class is well-formed (30_encoding.md R87). -/
theorem wf_unk_of_opcodeClass {b : Byte} (h : opcodeClass b = .unrecognised) (a : Addr) :
    (Instr.unk b a).wf = true := by
  rcases opcodeClass_cases b with ⟨_, c⟩ | ⟨_, c⟩ | ⟨_, c⟩ | ⟨_, c⟩ | ⟨h₁, h₂, h₃, h₄, _⟩
  · cases h.symm.trans c
  · cases h.symm.trans c
  · cases h.symm.trans c
  · cases h.symm.trans c
  · simpa [Instr.wf, recognisedOpcodes] using ⟨h₃, h₄, h₁, h₂⟩

/-- Inversion of the stream decoder: what it answers is well-formed, and its encoding is the bytes taken. -/
theorem decodeStream_ok {bytes rest : List Byte} {i : Instr} (h : decodeStream bytes = .ok (i, rest)) :
    i.wf = true ∧ ∃ own, encode i = .stream own ∧ bytes = own ++ rest := by
  match bytes with
  | [] => cases h
  | b :: operands =>
    rcases opcodeClass_cases b with ⟨rfl, _⟩ | ⟨rfl, _⟩ | ⟨rfl, _⟩ | ⟨rfl, _⟩ | ⟨_, _, _, _, hc⟩
    · cases h; exact ⟨rfl, _, rfl, rfl⟩
    · cases h; exact ⟨rfl, _, rfl, rfl⟩
    · match operands with
      | [] | [_] => cases h
      | hi :: lo :: tail => cases h; exact ⟨rfl, _, rfl, by simp⟩
    · match operands with
      | [] | [_] | [_, _] => cases h
      | hi :: lo :: v :: tail => cases h; exact ⟨rfl, _, rfl, by simp⟩
    · match operands with
      | [] | [_] => simp [decodeStream, hc] at h
      | hi :: lo :: tail =>
        simp only [decodeStream, hc] at h
        cases h
        exact ⟨wf_unk_of_opcodeClass hc _, _, rfl, by simp⟩

/-- Settles O2, by the inversion of the decoder. -/
theorem decodedBytesAreTheEncoding : Obligations.DecodedBytesAreTheEncoding :=
  fun _ _ _ h => decodeStream_ok h

/-- Settles O4: each word is closed, so the decoder runs on it. -/
theorem tableWordsDecode : Obligations.TableWordsDecode :=
  ⟨rfl, rfl, rfl, rfl, rfl, rfl, rfl, rfl, rfl, rfl, rfl⟩

end Sys2Proof
end

section
/-! Proofs for the whole machine: the invariant of Safety.lean holds at reset and every step keeps it. -/

namespace Sys2Proof.Machine

/-! ### The levels of the lines -/

/-- The levels of one bus cycle: legal, with legal changes, from chip-enable high to the idle bus
(40_bus_cycles.md R109). -/
structure LegalCycle (l : List Bus) : Prop where
  safe : ∀ b ∈ l, b.safe = true
  steady : l.IsChain (fun b c => b.steady c = true)
  opensHigh : ∀ c ∈ l.head?, c.ceN = true
  endsIdle : ∀ b ∈ l.getLast?, b.idle = true

theorem read_cycle_levels {a : DevAddr} {t : Nat} {b : Bus} (h : b.idle = true) :
    busAfterEach (readToSample a t ++ readRelease) b =
      [⟨a, true, b.dOut, false, true, true, true, true⟩, ⟨a, true, b.dOut, false, true, true, true, true⟩,
        ⟨a, true, b.dOut, false, true, false, true, true⟩, ⟨a, true, b.dOut, false, true, false, false, true⟩,
        ⟨a, true, b.dOut, false, true, false, false, true⟩, ⟨a, true, b.dOut, false, true, false, false, true⟩,
        ⟨a, true, b.dOut, false, true, false, true, true⟩, ⟨a, true, b.dOut, false, true, true, true, true⟩,
        ⟨a, false, b.dOut, false, true, true, true, true⟩] := by
  conv_lhs => rw [Bus.eq_of_idle h]
  rfl

theorem write_cycle_levels {a : DevAddr} {v : Byte} {t : Nat} {b : Bus} (h : b.idle = true) :
    busAfterEach (writeToEdge a v t ++ writeRelease) b =
      [⟨a, true, b.dOut, false, true, true, true, true⟩, ⟨a, true, b.dOut, false, true, false, true, true⟩,
        ⟨a, true, v, false, true, false, true, true⟩, ⟨a, true, v, true, false, false, true, true⟩,
        ⟨a, true, v, true, false, false, true, false⟩, ⟨a, true, v, true, false, false, true, false⟩,
        ⟨a, true, v, true, false, false, true, true⟩, ⟨a, true, v, true, false, false, true, true⟩,
        ⟨a, true, v, true, false, true, true, true⟩, ⟨a, false, v, true, false, true, true, true⟩,
        ⟨a, false, v, false, true, true, true, true⟩] := by
  conv_lhs => rw [Bus.eq_of_idle h]
  rfl

theorem read_cycle_legal {a : DevAddr} {t : Nat} {b : Bus} (h : b.idle = true) :
    LegalCycle (busAfterEach (readToSample a t ++ readRelease) b) := by
  rw [read_cycle_levels h]
  constructor <;> simp [Bus.safe, Bus.steady, Bus.idle]

theorem write_cycle_legal {a : DevAddr} {v : Byte} {t : Nat} {b : Bus} (h : b.idle = true) :
    LegalCycle (busAfterEach (writeToEdge a v t ++ writeRelease) b) := by
  rw [write_cycle_levels h]
  constructor <;> simp [Bus.safe, Bus.steady, Bus.idle]

/-- From the idle bus, any level with chip-enable high is a legal change (40_bus_cycles.md R109). -/
theorem steady_of_idle {b c : Bus} (hb : b.idle = true) (hc : c.ceN = true) : b.steady c = true := by
  rw [Bus.eq_of_idle hb]
  simp [Bus.steady, hc]

theorem safe_of_idle {b : Bus} (h : b.idle = true) : b.safe = true := by
  rw [Bus.eq_of_idle h]
  rfl

/-- The levels of a release, from the levels `b` (70_reset_and_hazards.md R203). -/
theorem resetRelease_levels (b : Bus) :
    busAfterEach resetRelease b =
      [{ b with weN := true }, { b with weN := true, oeN := true },
        { b with weN := true, oeN := true, ceN := true },
        { b with weN := true, oeN := true, ceN := true, aEn := false },
        { b with weN := true, oeN := true, ceN := true, aEn := false, dDir := false, dPu := true }] := rfl

/-- Legal levels have chip-enable low only with the address driven, and output-enable only in a read cycle
(40_bus_cycles.md R109). -/
theorem safe_lines {b : Bus} (h : b.safe = true) :
    (b.ceN = true ∨ b.aEn = true) ∧ (b.oeN = true ∨ (b.ceN = false ∧ b.aEn = true) ∧ b.dDir = false) := by
  simp only [Bus.safe, Bool.and_eq_true, Bool.or_eq_true, Bool.not_eq_true'] at h
  tauto

/-- A release from legal levels presents legal levels only: R203's order lets go of the address after
chip-enable. -/
theorem resetRelease_safe {b : Bus} (h : b.safe = true) : ∀ c ∈ busAfterEach resetRelease b, c.safe = true := by
  rw [resetRelease_levels]
  obtain ⟨hce, hoe⟩ := safe_lines h
  simpa [Bus.safe, hce] using hoe

theorem resetRelease_steady {b : Bus} (h : b.safe = true) :
    (busAfterEach resetRelease b).IsChain (fun c d => c.steady d = true) := by
  rw [resetRelease_levels]
  obtain ⟨hce, _⟩ := safe_lines h
  simpa [Bus.steady] using hce

/-- What the invariant says of the record of the pin level. -/
structure LegalRecord (l : List Bus) : Prop where
  safe : ∀ b ∈ l, b.safe = true
  steady : l.IsChain (fun b c => b.steady c = true)
  endsIdle : ∀ b ∈ l.getLast?, b.idle = true

theorem LegalRecord.append_cycle {l cycle : List Bus} (h : LegalRecord l) (hc : LegalCycle cycle) :
    LegalRecord (l ++ cycle) where
  safe b hb := (List.mem_append.mp hb).elim (h.safe b) (hc.safe b)
  steady := List.isChain_append.mpr
    ⟨h.steady, hc.steady, fun b hb c hcyc => steady_of_idle (h.endsIdle b hb) (hc.opensHigh c hcyc)⟩
  endsIdle b hb := by
    rw [List.getLast?_append, Option.mem_def, Option.or_eq_some_iff] at hb
    exact hb.elim (hc.endsIdle b) fun hb => h.endsIdle b hb.2

theorem resetRelease_legal {b : Bus} (h : b.safe = true) : LegalRecord (busAfterEach resetRelease b) where
  safe := resetRelease_safe h
  steady := resetRelease_steady h
  endsIdle c hc := by cases hc; rfl

/-! ### What every bus cycle keeps -/

/-- The part of the invariant that is about the lines and the device, which every bus cycle keeps. -/
structure State.BusInv (s : State) : Prop where
  idle : s.bus.idle = true
  record : LegalRecord s.pinTrace
  device : s.device.wf = true

theorem readByte_busInv {a : Addr} {s : State} (h : s.BusInv) : (readByte a s).2.BusInv := by
  rw [readByte_state]
  exact ⟨read_cycle_idle h.idle, h.record.append_cycle (read_cycle_legal h.idle),
    (Device.afterRead_wf s.device).trans h.device⟩

theorem writeByte_busInv {a : Addr} {v : Byte} {s : State} (h : s.BusInv) : (writeByte a v s).BusInv := by
  rw [writeByte_state]
  exact ⟨write_cycle_idle h.idle, h.record.append_cycle (write_cycle_legal h.idle),
    Device.afterWrite_wf h.device⟩

theorem poll_busInv {a : Addr} {x : Byte} {s : State} (h : s.BusInv) : (poll a x s).2.BusInv :=
  have hread (u : State) (hu : u.BusInv) : (pollRead a u).BusInv :=
    have hr := readByte_busInv (a := a) (s := u.setPoller .pRead) ⟨hu.idle, hu.record, hu.device⟩
    ⟨hr.idle, hr.record, hr.device⟩
  have hloop := pollLoop_keeps (P := State.BusInv) (expected := x) hread s.cfg.pollBound (s := s.setPollIter 0)
    ⟨h.idle, h.record, h.device⟩
  ⟨hloop.idle, hloop.record, hloop.device⟩

theorem runSequence_busInv {i : BitVec 3} {ws : List (Addr × Byte)} {s : State} (h : s.BusInv) :
    (runSequence i ws s).BusInv := by
  induction ws generalizing i s with
  | nil => exact h
  | cons w ws ih => exact ih (writeByte_busInv (s := s.setSeqIdx i) ⟨h.idle, h.record, h.device⟩)

theorem runColumn_busInv {ws : List (Addr × Byte)} {s : State} (h : s.BusInv) : (s.runColumn ws).BusInv :=
  have hrun := runSequence_busInv (i := 0) (ws := ws) (s := s.setRunner .sWrite) ⟨h.idle, h.record, h.device⟩
  ⟨hrun.idle, hrun.record, hrun.device⟩

/-! ### What every instruction keeps -/

/-- The part of the invariant that does not look at the sequencer's registers. -/
structure State.BlockInv (s : State) : Prop where
  config : s.cfg.wf = true
  inqBounded : s.inq.length ≤ s.cfg.qcap
  outqBounded : s.outq.length ≤ s.cfg.qcap
  quiet : s.quiet = true
  record : LegalRecord s.pinTrace
  device : s.device.wf = true
  pollBounded : s.pollIter ≤ s.cfg.pollBound
  seqBounded : s.seqIdx.toNat ≤ 5

theorem State.BlockInv.busInv {s : State} (h : s.BlockInv) : s.BusInv :=
  ⟨((quiet_iff s).mp h.quiet).1, h.record, h.device⟩

theorem readByte_blockInv {a : Addr} {s : State} (h : s.BlockInv) : (readByte a s).2.BlockInv := by
  have hb := readByte_busInv (a := a) h.busInv
  obtain ⟨_, hp, hr⟩ := (quiet_iff s).mp h.quiet
  exact ⟨h.config, h.inqBounded, h.outqBounded, (quiet_iff _).mpr ⟨hb.idle, hp, hr⟩, hb.record, hb.device,
    h.pollBounded, h.seqBounded⟩

theorem writeByte_blockInv {a : Addr} {v : Byte} {s : State} (h : s.BlockInv) :
    (writeByte a v s).BlockInv := by
  have hb := writeByte_busInv (a := a) (v := v) h.busInv
  obtain ⟨_, hp, hr⟩ := (quiet_iff s).mp h.quiet
  exact ⟨h.config, h.inqBounded, h.outqBounded, (quiet_iff _).mpr ⟨hb.idle, hp, hr⟩, hb.record, hb.device,
    h.pollBounded, h.seqBounded⟩

theorem poll_blockInv {a : Addr} {x : Byte} {s : State} (h : s.BlockInv) : (poll a x s).2.BlockInv := by
  have hb := poll_busInv (a := a) (x := x) h.busInv
  obtain ⟨_, _, hr⟩ := (quiet_iff s).mp h.quiet
  obtain ⟨k, hrun⟩ := poll_run a x (pollBound_pos_of_wf h.config)
  exact ⟨by simpa using h.config, by simpa using h.inqBounded, by simpa using h.outqBounded,
    (quiet_iff _).mpr ⟨hb.idle, rfl, by simpa using hr⟩, hb.record, hb.device,
    by simpa [hrun.pollIter] using hrun.le_bound, by simpa using h.seqBounded⟩

/-- A whole column keeps it: of six writes at most, so `SEQ_IDX` stays within its range (10_state.md R32). -/
theorem runColumn_blockInv {w : Addr × Byte} {ws : List (Addr × Byte)} {s : State} (hlen : ws.length ≤ 5)
    (h : s.BlockInv) : (s.runColumn (w :: ws)).BlockInv := by
  have hb := runColumn_busInv (ws := w :: ws) h.busInv
  have hseq : (s.runColumn (w :: ws)).seqIdx.toNat ≤ 5 := by
    rw [runColumn_seqIdx, BitVec.toNat_ofNat]
    exact (Nat.mod_le _ _).trans hlen
  obtain ⟨_, hp, _⟩ := (quiet_iff s).mp h.quiet
  obtain ⟨b, p, tr, dev, j, hrun⟩ := runSequence_only 0 (w :: ws) (s.setRunner .sWrite)
  rw [State.runColumn, hrun] at hb hseq ⊢
  exact ⟨h.config, h.inqBounded, h.outqBounded, (quiet_iff _).mpr ⟨hb.idle, hp, rfl⟩, hb.record, hb.device,
    h.pollBounded, hseq⟩

/-- A reply fits where `OUTQ` was not full (10_state.md R26). -/
theorem reply_blockInv {b : Byte} {s : State} (h : s.BlockInv) (ho : s.outqFull = false) :
    (s.reply b).BlockInv := by
  have hroom : s.outq.length < s.cfg.qcap := by simpa [State.outqFull] using ho
  exact { h with outqBounded := by simpa using hroom }

theorem setInq_blockInv {q : List Byte} {s : State} (h : s.BlockInv) (hq : q.length ≤ s.inq.length) :
    (s.setInq q).BlockInv :=
  { h with inqBounded := hq.trans h.inqBounded }

theorem exec_blockInv {i : Instr} {s t : State} (h : s.BlockInv) (hexec : exec i s = .next t) :
    t.BlockInv := by
  cases exec_case hexec with
  | rStall | wStall | unk => exact h
  | r a ho => exact reply_blockInv (readByte_blockInv h) (by simpa [State.outqFull] using ho)
  | w a v front rest hq ho =>
    have htail := setInq_blockInv (q := rest) h (by simp [hq])
    exact reply_blockInv (readByte_blockInv (poll_blockInv (writeByte_blockInv htail)))
      (by simpa [State.outqFull] using ho)
  | e ho =>
    exact reply_blockInv (runColumn_blockInv (by decide) h) (by simpa [State.outqFull] using ho)
  | d ho =>
    exact reply_blockInv (runColumn_blockInv (by decide) h) (by simpa [State.outqFull] using ho)
  | readByte => exact { readByte_blockInv h with }
  | writeByte => exact writeByte_blockInv h
  | poll => exact { poll_blockInv h with }
  | protEnable => exact runColumn_blockInv (by decide) h
  | protDisable => exact runColumn_blockInv (by decide) h

theorem FetchCase.blockInv {s : State} {r : State × Option Instr} (hf : FetchCase s r) (h : s.BlockInv) :
    r.1.BlockInv := by
  have htail {b : Byte} {rest : List Byte} (hq : s.inq = b :: rest) : (s.setInq rest).BlockInv :=
    setInq_blockInv h (by simp [hq])
  cases hf with
  | noByte => exact h
  | protOn b rest hq | protOff b rest hq | opcode b rest hq | highByte b rest hq | lowByte b rest hq =>
    exact { htail hq with }

theorem advance_blockInv {s t : State} (h : s.BlockInv) (hadv : advance s = .next t) : t.BlockInv := by
  rcases advance_next hadv with hf | ⟨u, i, hf, hexec⟩
  · exact FetchCase.blockInv (hf ▸ fetch_case s) h
  · exact exec_blockInv (FetchCase.blockInv (hf ▸ fetch_case s) h) hexec

/-! ### The sequencer's registers -/

/-- The part of the invariant that ties `CMD_OP` and `CMD_ADDR` to `PSTATE` and holds within an invocation too. -/
structure State.SequencerInv (s : State) : Prop where
  pendingOpcode : s.pstate ≠ .awaitOpcode → s.cmdOp ≠ opcProtOn ∧ s.cmdOp ≠ opcProtOff
  halfAddress : s.pstate = .awaitAddressLow → lowByte s.cmdAddr = 0

/-- In Execute with `'r'`: only within an invocation that goes on to run it (43_commands.md R150). -/
def State.pendingRead (s : State) : Prop := s.pstate = .execute ∧ s.cmdOp = opcRead

theorem State.inv_iff (s : State) : s.Inv ↔ s.BlockInv ∧ s.SequencerInv ∧ ¬ s.pendingRead :=
  ⟨fun h => ⟨⟨h.config, h.inqBounded, h.outqBounded, h.quiet, ⟨h.pinsSafe, h.pinsSteady, h.pinsEndIdle⟩,
      h.device, h.pollBounded, h.seqBounded⟩, ⟨h.pendingOpcode, h.halfAddress⟩, h.noPendingRead⟩,
    fun ⟨h, hs, hr⟩ => ⟨h.config, h.inqBounded, h.outqBounded, h.quiet, h.record.safe, h.record.steady,
      h.record.endsIdle, h.device, h.pollBounded, h.seqBounded, hs.pendingOpcode, hr, hs.halfAddress⟩⟩

theorem sequencerInv_of_awaitOpcode {s : State} (hp : s.pstate = .awaitOpcode) : s.SequencerInv :=
  ⟨fun h => absurd hp h, fun h => by rw [hp] at h; cases h⟩

theorem exec_sequencerInv {i : Instr} {s t : State} (h : s.SequencerInv) (hexec : exec i s = .next t) :
    t.SequencerInv := by
  obtain ⟨hp | hp, hop, haddr⟩ := exec_control hexec
  · exact sequencerInv_of_awaitOpcode hp
  · exact ⟨by rw [hp, hop]; exact h.pendingOpcode, by rw [hp, haddr]; exact h.halfAddress⟩

theorem lowByte_storeHigh (b : Byte) : lowByte (storeHigh b) = 0 := by
  rw [storeHigh_append, ← assembleAddr_append, lowByte_assembleAddr]

theorem FetchCase.sequencerInv {s : State} {r : State × Option Instr} (hf : FetchCase s r)
    (h : s.SequencerInv) : r.1.SequencerInv := by
  cases hf with
  | noByte => exact h
  | protOn b rest hq ho hp | protOff b rest hq ho hp => exact sequencerInv_of_awaitOpcode hp
  | opcode b rest hq ho hp h₁ h₂ =>
    exact ⟨fun _ => ⟨fun hb => h₁ (congrArg opcodeClass hb), fun hb => h₂ (congrArg opcodeClass hb)⟩, nofun⟩
  | highByte b rest hq ho hp => exact ⟨fun _ => h.pendingOpcode (by simp [hp]), fun _ => lowByte_storeHigh b⟩
  | lowByte b rest hq ho hp => exact ⟨fun _ => h.pendingOpcode (by simp [hp]), nofun⟩

theorem advance_sequencerInv {s t : State} (h : s.SequencerInv) (hadv : advance s = .next t) :
    t.SequencerInv := by
  rcases advance_next hadv with hf | ⟨u, i, hf, hexec⟩
  · exact FetchCase.sequencerInv (hf ▸ fetch_case s) h
  · exact exec_sequencerInv (FetchCase.sequencerInv (hf ▸ fetch_case s) h) hexec

/-- An invocation that takes the low address byte of an `r` runs it, for `OUTQ` has a place (43_commands.md
R141, R150). -/
theorem advance_lowByte_read_replies {s t : State} {b : Byte} {rest : List Byte}
    (hp : s.pstate = .awaitAddressLow) (hq : s.inq = b :: rest) (ho : s.outqFull = false)
    (hop : s.cmdOp = opcRead) (hadv : advance s = .next t) : t.pstate = .awaitOpcode := by
  rw [advance_lowByte_read hp hq ho hop] at hadv
  cases exec_case hadv with
  | rStall _ hfull => exact absurd ho (by simpa using hfull)
  | r => rfl

theorem advance_not_pendingRead {s t : State} (h : ¬ s.pendingRead) (hadv : advance s = .next t) :
    ¬ t.pendingRead := by
  rintro ⟨hp', hop'⟩
  cases advance_case hadv with
  | stall => exact h ⟨hp', hop'⟩
  | lowByte b rest hp hq ho => exact nomatch advance_lowByte_read_replies hp hq ho hop' hadv
  | _ => cases hp'

/-! ### Every step -/

theorem advance_inv {s t : State} (h : s.Inv) (hadv : advance s = .next t) : t.Inv := by
  obtain ⟨hb, hs, hr⟩ := s.inv_iff.mp h
  exact t.inv_iff.mpr ⟨advance_blockInv hb hadv, advance_sequencerInv hs hadv, advance_not_pendingRead hr hadv⟩

theorem exec_inv {i : Instr} {s t : State} (h : s.Inv) (hexec : exec i s = .next t) : t.Inv := by
  obtain ⟨hb, hs, hr⟩ := s.inv_iff.mp h
  refine t.inv_iff.mpr ⟨exec_blockInv hb hexec, exec_sequencerInv hs hexec, fun ⟨hp', hop'⟩ => ?_⟩
  obtain ⟨hp | hp, hop, _⟩ := exec_control hexec
  · cases hp'.symm.trans hp
  · exact hr ⟨hp.symm.trans hp', hop.symm.trans hop'⟩

theorem serveRequest_next {q : OpRequest} {s t : State} (h : serveRequest q s = .next t) :
    ∃ i, decodeRequest q = .ok i ∧ exec i s = .next t := by
  unfold serveRequest at h
  split at h
  · exact ⟨_, ‹_›, h⟩
  · cases h

theorem transportAppend_inv {s : State} (h : s.Inv) : (transportAppend s).Inv := by
  unfold transportAppend
  split
  · exact h
  · split
    · exact h
    · rename_i hfull
      have hroom : s.inq.length < s.cfg.qcap := by simpa [State.inqFull] using hfull
      exact { h with inqBounded := by simpa using hroom }

theorem transportRemove_inv {s : State} (h : s.Inv) : (transportRemove s).Inv := by
  unfold transportRemove
  split
  · exact h
  · rename_i b rest hq
    have hlen := h.outqBounded
    rw [hq] at hlen
    exact { h with outqBounded := (Nat.le_succ _).trans hlen }

/-- Reset gives a state that meets the invariant from any legal levels of the lines; the ranges of `POLL_ITER`
and `SEQ_IDX` hold by the model's zeros (notes/assumptions/4.md). -/
theorem powerOn_inv {s : State} (hc : s.cfg.wf = true) (hd : s.device.wf = true) (hb : s.bus.safe = true) :
    (powerOn s).Inv :=
  (powerOn s).inv_iff.mpr ⟨⟨hc, Nat.zero_le _, Nat.zero_le _, rfl, resetRelease_legal hb, hd, Nat.zero_le _,
    Nat.zero_le _⟩, sequencerInv_of_awaitOpcode rfl, nofun⟩

theorem State.Inv.bus_safe {s : State} (h : s.Inv) : s.bus.safe = true :=
  safe_of_idle ((quiet_iff s).mp h.quiet).1

theorem cutShort_inv {k : Nat} {s t : State} {o : Host.Outcome State Fault Refusal} (h : s.Inv)
    (ho : ∀ u, o = .next u → u.Inv) (hcut : cutShort k s o = .next t) : t.Inv := by
  obtain ⟨u, hu, ⟨b, hb, rfl⟩ | ⟨_, rfl⟩⟩ := cutShort_next hcut
  · exact powerOn_inv h.config rfl ((ho u hu).pinsSafe b (mem_of_level hb))
  · exact powerOn_inv (ho u hu).config (ho u hu).device (ho u hu).bus_safe

theorem serveRequest_inv {q : OpRequest} {s t : State} (h : s.Inv) (hreq : serveRequest q s = .next t) :
    t.Inv :=
  have ⟨_, _, hexec⟩ := serveRequest_next hreq
  exec_inv h hexec

theorem runEvent_inv {ev : Event} {s t : State} (h : s.Inv) (hrun : runEvent ev s = .next t) : t.Inv := by
  cases ev with
  | invoke => exact advance_inv h hrun
  | append => cases hrun; exact transportAppend_inv h
  | remove => cases hrun; exact transportRemove_inv h
  | request q => exact serveRequest_inv h hrun
  | powerCycle => cases hrun; exact powerOn_inv h.config h.device h.bus_safe
  | cutInvocation k => exact cutShort_inv h (fun _ => advance_inv h) hrun
  | cutRequest k q => exact cutShort_inv h (fun _ => serveRequest_inv h) hrun

/-- The invariant does not look at the agenda. -/
theorem setAgenda_inv {es : List Event} {s : State} (h : s.Inv) : (s.setAgenda es).Inv := { h with }

/-- Settles O43, by what the step ran: an invocation, or the event at the head of the agenda. -/
theorem stepKeepsTheInvariant : Obligations.StepKeepsTheInvariant := by
  intro s t h hstep
  obtain ⟨_, ⟨_, hadv⟩ | ⟨ev, es, _, hrun⟩⟩ := step_next hstep
  · exact advance_inv h hadv
  · exact runEvent_inv (setAgenda_inv h) hrun

/-- Settles O44: nothing is queued, recorded or pending at reset. -/
theorem resetMeetsTheInvariant : Obligations.ResetMeetsTheInvariant :=
  State.reset.inv_iff.mpr ⟨⟨rfl, Nat.zero_le _, Nat.zero_le _, rfl, ⟨nofun, .nil, nofun⟩, rfl, Nat.zero_le _,
    Nat.zero_le _⟩, sequencerInv_of_awaitOpcode rfl, nofun⟩

end Sys2Proof.Machine
end

section
/-! Proofs for the refusals (40_bus_cycles.md R105, 10_state.md R26, 30_encoding.md R89) and for what every step
has in common: it returns, keeps the parameters, and takes nothing back from the two records. -/

namespace Sys2Proof.Machine

/-! ### The refusals -/

theorem whenQuiet_of_busy {s : State} {o : Host.Outcome State Fault Refusal} (h : s.quiet = false) :
    whenQuiet s o = .refused .operationInProgress := by
  simp [whenQuiet, h]

theorem whenQuiet_refused {s : State} {o : Host.Outcome State Fault Refusal} {r : Refusal}
    (h : whenQuiet s o = .refused r) : (s.quiet = false ∧ r = .operationInProgress) ∨ o = .refused r := by
  cases hq : s.quiet with
  | false =>
    rw [whenQuiet_of_busy hq] at h
    cases h
    exact .inl ⟨rfl, rfl⟩
  | true => exact .inr ((whenQuiet_of_quiet hq).symm.trans h)

theorem whenBound_refused {s : State} {o : Host.Outcome State Fault Refusal} {r : Refusal}
    (h : whenBound s o = .refused r) : (s.cfg.pollBound = 0 ∧ r = .badConfiguration) ∨ o = .refused r := by
  unfold whenBound at h
  split at h
  · cases h; exact .inl ⟨‹_›, rfl⟩
  · exact .inr h

/-- Settles O32: past its own stalls and refusals, each of the nine asks `whenQuiet` first. -/
theorem secondOperationIsRefused : Obligations.SecondOperationIsRefused := by
  refine fun s h => ⟨fun _ => whenQuiet_of_busy h, fun _ _ => whenQuiet_of_busy h,
    fun _ _ => whenQuiet_of_busy h, whenQuiet_of_busy h, whenQuiet_of_busy h, fun ho => ⟨fun a => ?_, ?_, ?_, ?_⟩⟩
  · simp [exec, execR, ho, whenQuiet_of_busy h]
  · simp [exec, execE, ho, whenQuiet_of_busy h]
  · simp [exec, execD, ho, whenQuiet_of_busy h]
  · intro hq a v
    obtain ⟨front, rest, hq⟩ := List.exists_cons_of_ne_nil hq
    simp [exec, execW, hq, ho, whenQuiet_of_busy h]

/-- Settles O33: both test `OUTQ` first. -/
theorem illegalEnqueueIsRefused : Obligations.IllegalEnqueueIsRefused := fun _ h => ⟨if_pos h, if_pos h⟩

/-- Inversion of a refused instruction: who refuses it, and where. -/
theorem exec_refused {i : Instr} {s : State} {r : Refusal} (h : exec i s = .refused r) :
    (r = .operationInProgress ∧ s.quiet = false) ∨ (r = .badConfiguration ∧ s.cfg.pollBound = 0) ∨
      (r = .enqueueOnFull ∧ s.outqFull = true ∧ (i = .e ∨ i = .d)) := by
  have busy {t : State} (h : whenQuiet s (.next t) = .refused r) :
      r = .operationInProgress ∧ s.quiet = false := by
    rcases whenQuiet_refused h with ⟨hq, hr⟩ | h
    · exact ⟨hr, hq⟩
    · cases h
  have busyOrUnbounded {t : State} (h : whenQuiet s (whenBound s (.next t)) = .refused r) :
      (r = .operationInProgress ∧ s.quiet = false) ∨ (r = .badConfiguration ∧ s.cfg.pollBound = 0) := by
    rcases whenQuiet_refused h with ⟨hq, hr⟩ | h
    · exact .inl ⟨hr, hq⟩
    rcases whenBound_refused h with ⟨hb, hr⟩ | h
    · exact .inr ⟨hr, hb⟩
    · cases h
  cases i with
  | r a =>
    simp only [exec, execR, stall] at h
    split at h
    · cases h
    · exact .inl (busy h)
  | w a v =>
    simp only [exec, execW, stall] at h
    split at h
    · cases h
    · split at h
      · cases h
      · exact (busyOrUnbounded h).imp id .inl
  | e =>
    simp only [exec, execE] at h
    split at h
    · cases h; exact .inr (.inr ⟨rfl, ‹_›, .inl rfl⟩)
    · exact .inl (busy h)
  | d =>
    simp only [exec, execD] at h
    split at h
    · cases h; exact .inr (.inr ⟨rfl, ‹_›, .inr rfl⟩)
    · exact .inl (busy h)
  | unk b a => cases h
  | poll a x => exact (busyOrUnbounded h).imp id .inl
  | readByte | writeByte | protEnable | protDisable => exact .inl (busy h)

theorem decodeRequest_reserved {q : OpRequest} (h : 5 ≤ q.sel.toNat) :
    decodeRequest q = .error (.reservedOpSel q.sel) := by
  have hne (x : BitVec 3) (hx : x.toNat < 5) : q.sel ≠ x := by
    intro hsel
    rw [hsel] at h
    omega
  rw [decodeRequest, if_neg (hne 0 (by decide)), if_neg (hne 1 (by decide)), if_neg (hne 2 (by decide)),
    if_neg (hne 3 (by decide)), if_neg (hne 4 (by decide))]

theorem decodeRequest_of_lt {q : OpRequest} (h : q.sel.toNat < 5) : ∃ i, decodeRequest q = .ok i := by
  unfold decodeRequest
  split_ifs
  case neg => bv_omega
  all_goals exact ⟨_, rfl⟩

/-- What a request selects is an operation of the port, the one with its `OP_SEL` code (30_encoding.md R89). -/
theorem opSel_of_decodeRequest {q : OpRequest} {i : Instr} (h : decodeRequest q = .ok i) :
    Laws.EncodedLength.opSel i = some q.sel := by
  unfold decodeRequest at h
  split_ifs at h <;> cases h <;> simp [Laws.EncodedLength.opSel, *]

/-- Settles O31: a reserved code decodes to nothing, and no operation that a code selects gives this refusal. -/
theorem reservedOpSelIsRefused : Obligations.ReservedOpSelIsRefused := by
  intro s q es hc ha
  rw [step_of_cons hc ha]
  refine ⟨fun h => by simp [runEvent, serveRequest, decodeRequest_reserved h], fun h => ?_⟩
  by_contra hlt
  obtain ⟨i, hi⟩ := decodeRequest_of_lt (Nat.lt_of_not_le hlt)
  simp only [runEvent, serveRequest, hi] at h
  rcases exec_refused h with ⟨hr, _⟩ | ⟨hr, _⟩ | ⟨hr, _⟩ <;> cases hr

/-! ### Every step returns -/

/-- The block raises no fault, so what is not refused answers a next state (60_exceptions.md R170). -/
theorem next_of_not_refused {o : Host.Outcome State Fault Refusal} (h : ∀ r, o ≠ .refused r) :
    ∃ t, o = .next t := by
  cases o with
  | next t => exact ⟨t, rfl⟩
  | fault f => cases f
  | refused r => exact absurd rfl (h r)

theorem exec_returns {i : Instr} {s : State} (hu : s.quiet = true) (hb : 1 ≤ s.cfg.pollBound)
    (ho : i = .e ∨ i = .d → s.outqFull = false) : ∃ t, exec i s = .next t := by
  refine next_of_not_refused fun r hr => ?_
  rcases exec_refused hr with ⟨_, h⟩ | ⟨_, h⟩ | ⟨_, h, hi⟩
  · simp [hu] at h
  · omega
  · simp [ho hi] at h

/-- What waits in Execute is never `e` or `d` (43_commands.md R149). -/
theorem decodePending_not_protect {op : Byte} {a : Addr} {front : Option Byte} :
    decodePending op a front ≠ some .e ∧ decodePending op a front ≠ some .d := by
  unfold decodePending
  cases opcodeClass op <;> cases front <;> simp

/-- What a fetch leaves of the guards of the command it finds: `e` and `d` are found with a place in `OUTQ`
only (43_commands.md R141). -/
theorem FetchCase.guards {s : State} {r : State × Option Instr} (hf : FetchCase s r) :
    r.1.quiet = s.quiet ∧ r.1.cfg = s.cfg ∧ (r.2 = some .e ∨ r.2 = some .d → r.1.outqFull = false) := by
  cases hf with
  | noByte =>
    refine ⟨rfl, rfl, fun h => ?_⟩
    unfold State.pending at h
    split at h
    · exact absurd h (not_or.mpr decodePending_not_protect)
    · simp at h
  | lowByte => exact ⟨rfl, rfl, fun h => absurd h (not_or.mpr decodePending_not_protect)⟩
  | protOn b rest _ ho | protOff b rest _ ho | opcode b rest _ ho | highByte b rest _ ho =>
    exact ⟨rfl, rfl, fun _ => ho⟩

theorem advance_returns {s : State} (hu : s.quiet = true) (hb : 1 ≤ s.cfg.pollBound) :
    ∃ t, advance s = .next t := by
  obtain ⟨hquiet, hcfg, hroom⟩ := (fetch_case s).guards
  rcases hf : fetch s with ⟨u, _ | i⟩
  · exact ⟨u, advance_of_fetch_none hf⟩
  · rw [hf] at hquiet hcfg hroom
    rw [advance_of_fetch_some hf]
    exact exec_returns (hquiet.trans hu) (hcfg ▸ hb) fun hi => hroom (hi.imp (congrArg some) (congrArg some))

theorem serveRequest_returns {q : OpRequest} {s : State} (hu : s.quiet = true) (hb : 1 ≤ s.cfg.pollBound)
    (hq : q.sel.toNat < 5) : ∃ t, serveRequest q s = .next t := by
  obtain ⟨i, hi⟩ := decodeRequest_of_lt hq
  have hsel := opSel_of_decodeRequest hi
  rw [serveRequest, hi]
  refine exec_returns hu hb fun h => ?_
  rcases h with rfl | rfl <;> cases hsel

theorem cutShort_returns {k : Nat} {s : State} {o : Host.Outcome State Fault Refusal}
    (h : ∃ t, o = .next t) : ∃ t, cutShort k s o = .next t := by
  obtain ⟨t, rfl⟩ := h
  unfold cutShort
  dsimp only
  split
  · exact ⟨_, rfl⟩
  · exact ⟨_, rfl⟩

/-- Settles O45: the invariant gives a quiet machine and a bound, and a fetch finds `e` and `d` only with a
place in `OUTQ`. -/
theorem everyStepReturns : Obligations.EveryStepReturns := by
  intro s h hreq hcut
  have hu := h.quiet
  have hb := pollBound_pos_of_wf h.config
  cases ha : s.agenda with
  | nil =>
    rw [step_of_nil h.config ha]
    exact advance_returns hu hb
  | cons ev es =>
    rw [step_of_cons h.config ha]
    cases ev with
    | invoke => exact advance_returns hu hb
    | append | remove | powerCycle => exact ⟨_, rfl⟩
    | request q => exact serveRequest_returns hu hb (hreq q es ha)
    | cutInvocation k => exact cutShort_returns (advance_returns hu hb)
    | cutRequest k q => exact cutShort_returns (serveRequest_returns hu hb (hcut k q es ha))

/-! ### What no step changes or takes back -/

theorem exec_cfg {i : Instr} {s t : State} (h : exec i s = .next t) : t.cfg = s.cfg := by
  cases exec_case h with
  | w => simp [writePollRead]
  | _ => simp

theorem advance_cfg {s t : State} (h : advance s = .next t) : t.cfg = s.cfg := by
  have hcfg := (fetch_case s).guards.2.1
  rcases advance_next h with hf | ⟨u, i, hf, hexec⟩
  · rwa [hf] at hcfg
  · rw [hf] at hcfg
    exact (exec_cfg hexec).trans hcfg

/-- The transport's append either does nothing or moves one byte (60_exceptions.md R186). -/
theorem transportAppend_cases (s : State) :
    (transportAppend s = s ∧ (s.hostStream = [] ∨ s.inqFull = true)) ∨
      ∃ b rest, s.hostStream = b :: rest ∧ s.inqFull = false ∧
        transportAppend s = { s with inq := s.inq ++ [b], hostStream := rest } := by
  unfold transportAppend
  split
  · exact .inl ⟨rfl, .inl ‹_›⟩
  · split
    · exact .inl ⟨rfl, .inr ‹_›⟩
    · exact .inr ⟨_, _, ‹_›, by simpa using ‹¬s.inqFull = true›, rfl⟩

/-- The transport's removal either does nothing or moves one byte (60_exceptions.md R186). -/
theorem transportRemove_cases (s : State) :
    (transportRemove s = s ∧ s.outq = []) ∨
      ∃ b rest, s.outq = b :: rest ∧
        transportRemove s = { s with outq := rest, hostReceived := s.hostReceived ++ [b] } := by
  unfold transportRemove
  split
  · exact .inl ⟨rfl, ‹_›⟩
  · exact .inr ⟨_, _, ‹_›, rfl⟩

theorem serveRequest_cfg {q : OpRequest} {s t : State} (h : serveRequest q s = .next t) : t.cfg = s.cfg :=
  have ⟨_, _, hexec⟩ := serveRequest_next h
  exec_cfg hexec

theorem cutShort_cfg {k : Nat} {s t : State} {o : Host.Outcome State Fault Refusal}
    (ho : ∀ u, o = .next u → u.cfg = s.cfg) (h : cutShort k s o = .next t) : t.cfg = s.cfg := by
  obtain ⟨u, hu, ⟨_, _, rfl⟩ | ⟨_, rfl⟩⟩ := cutShort_next h
  · rfl
  · exact ho u hu

theorem runEvent_cfg {ev : Event} {s t : State} (h : runEvent ev s = .next t) : t.cfg = s.cfg := by
  cases ev with
  | invoke => exact advance_cfg h
  | append =>
    cases h
    rcases transportAppend_cases s with ⟨heq, _⟩ | ⟨_, _, _, _, heq⟩ <;> rw [heq]
  | remove =>
    cases h
    rcases transportRemove_cases s with ⟨heq, _⟩ | ⟨_, _, _, heq⟩ <;> rw [heq]
  | request q => exact serveRequest_cfg h
  | powerCycle => cases h; rfl
  | cutInvocation k => exact cutShort_cfg (fun _ => advance_cfg) h
  | cutRequest k q => exact cutShort_cfg (fun _ => serveRequest_cfg) h

/-- Settles O34: `step` checks the configuration first, and neither an invocation nor an event changes it. -/
theorem configurationIsCheckedAndConstant : Obligations.ConfigurationIsCheckedAndConstant := by
  refine fun s => ⟨fun h => ?_, fun t hstep => ?_⟩
  · have hbad : s.cfg.wf = false := by
      rcases h with h | h <;> simp [Config.wf, h]
    simp [step, hbad]
  · obtain ⟨_, ⟨_, hadv⟩ | ⟨ev, es, _, hrun⟩⟩ := step_next hstep
    · exact advance_cfg hadv
    · exact (runEvent_cfg hrun :)

/-- `t` comes after `s`: neither record of bus activity has lost anything. -/
structure State.RecordsGrow (s t : State) : Prop where
  trace : s.trace <+: t.trace
  pins : s.pinTrace <+: t.pinTrace

theorem State.RecordsGrow.refl (s : State) : s.RecordsGrow s := ⟨List.prefix_rfl, List.prefix_rfl⟩

theorem State.RecordsGrow.trans {s t u : State} (h₁ : s.RecordsGrow t) (h₂ : t.RecordsGrow u) :
    s.RecordsGrow u :=
  ⟨h₁.trace.trans h₂.trace, h₁.pins.trans h₂.pins⟩

theorem readByte_recordsGrow (a : Addr) (s : State) : s.RecordsGrow (readByte a s).2 := by
  rw [readByte_state]
  exact ⟨List.prefix_append _ _, List.prefix_append _ _⟩

theorem writeByte_recordsGrow (a : Addr) (v : Byte) (s : State) : s.RecordsGrow (writeByte a v s) := by
  rw [writeByte_state]
  exact ⟨List.prefix_append _ _, List.prefix_append _ _⟩

theorem poll_recordsGrow (a : Addr) (x : Byte) (s : State) : s.RecordsGrow (poll a x s).2 :=
  have hread (u : State) (hu : s.RecordsGrow u) : s.RecordsGrow (pollRead a u) :=
    have hr := readByte_recordsGrow a (u.setPoller .pRead)
    hu.trans ⟨hr.trace, hr.pins⟩
  have hloop := pollLoop_keeps (P := s.RecordsGrow) (expected := x) hread s.cfg.pollBound
    (s := s.setPollIter 0) ⟨List.prefix_rfl, List.prefix_rfl⟩
  ⟨hloop.trace, hloop.pins⟩

theorem runSequence_recordsGrow (i : BitVec 3) (ws : List (Addr × Byte)) (s : State) :
    s.RecordsGrow (runSequence i ws s) := by
  induction ws generalizing i s with
  | nil => exact .refl s
  | cons w ws ih =>
    have hw := writeByte_recordsGrow w.1 w.2 (s.setSeqIdx i)
    exact .trans ⟨hw.trace, hw.pins⟩ (ih _ _)

theorem runColumn_recordsGrow (ws : List (Addr × Byte)) (s : State) : s.RecordsGrow (s.runColumn ws) :=
  have hrun := runSequence_recordsGrow 0 ws (s.setRunner .sWrite)
  ⟨hrun.trace, hrun.pins⟩

theorem writePollRead_recordsGrow (a : Addr) (v : Byte) (s : State) : s.RecordsGrow (writePollRead a v s) :=
  have hcycles := ((writeByte_recordsGrow a v s).trans (poll_recordsGrow a v _)).trans (readByte_recordsGrow a _)
  ⟨hcycles.trace, hcycles.pins⟩

theorem exec_recordsGrow {i : Instr} {s t : State} (h : exec i s = .next t) : s.RecordsGrow t := by
  cases exec_case h with
  | rStall | wStall | unk => exact .refl s
  | r a | readByte a =>
    have hr := readByte_recordsGrow a s
    exact ⟨hr.trace, hr.pins⟩
  | w a v front rest =>
    have hw := writePollRead_recordsGrow a v (s.setInq rest)
    exact ⟨hw.trace, hw.pins⟩
  | e | protEnable =>
    have hrun := runColumn_recordsGrow enableSequence s
    exact ⟨hrun.trace, hrun.pins⟩
  | d | protDisable =>
    have hrun := runColumn_recordsGrow disableSequence s
    exact ⟨hrun.trace, hrun.pins⟩
  | writeByte a v => exact writeByte_recordsGrow a v s
  | poll a x =>
    have hp := poll_recordsGrow a x s
    exact ⟨hp.trace, hp.pins⟩

theorem FetchCase.recordsGrow {s : State} {r : State × Option Instr} (hf : FetchCase s r) :
    s.RecordsGrow r.1 := by
  cases hf <;> exact ⟨List.prefix_rfl, List.prefix_rfl⟩

theorem advance_recordsGrow {s t : State} (h : advance s = .next t) : s.RecordsGrow t := by
  have hgrow := (fetch_case s).recordsGrow
  rcases advance_next h with hf | ⟨u, i, hf, hexec⟩
  · rwa [hf] at hgrow
  · rw [hf] at hgrow
    exact hgrow.trans (exec_recordsGrow hexec)

theorem runEvent_recordsGrow {ev : Event} {s t : State} (hev : ev.resets = false)
    (h : runEvent ev s = .next t) : s.RecordsGrow t := by
  cases ev with
  | invoke => exact advance_recordsGrow h
  | append =>
    cases h
    rcases transportAppend_cases s with ⟨heq, _⟩ | ⟨_, _, _, _, heq⟩ <;> rw [heq] <;>
      exact ⟨List.prefix_rfl, List.prefix_rfl⟩
  | remove =>
    cases h
    rcases transportRemove_cases s with ⟨heq, _⟩ | ⟨_, _, _, heq⟩ <;> rw [heq] <;>
      exact ⟨List.prefix_rfl, List.prefix_rfl⟩
  | request q =>
    obtain ⟨_, _, hexec⟩ := serveRequest_next h
    exact exec_recordsGrow hexec
  | powerCycle | cutInvocation | cutRequest => cases hev

/-- Settles O46, by what the step ran. -/
theorem traceOnlyGrows : Obligations.TraceOnlyGrows := by
  intro s t hev hstep
  obtain ⟨_, ⟨_, hadv⟩ | ⟨ev, es, ha, hrun⟩⟩ := step_next hstep
  · have hgrow := advance_recordsGrow hadv
    exact ⟨hgrow.trace, hgrow.pins⟩
  · have hgrow := runEvent_recordsGrow (hev ev es ha) hrun
    exact ⟨hgrow.trace, hgrow.pins⟩

/-! ### Reset -/

/-- Settles O40: the reset state is closed. -/
theorem resetState : Obligations.ResetState := ⟨rfl, rfl, rfl, rfl, rfl, rfl, rfl, rfl⟩

/-- Settles O42: `powerOn` names the fields it keeps. -/
theorem nothingSurvivesAPowerCycle : Obligations.NothingSurvivesAPowerCycle := fun s es hc ha =>
  ⟨powerOn (s.setAgenda es), step_of_cons hc ha, rfl, rfl, rfl, rfl, rfl, rfl, rfl, rfl⟩

/-- The levels a cut releases the lines from: those the work presents as its level number `k`, or those it ends
with (70_reset_and_hazards.md R203). -/
theorem cutShort_powerOn {k : Nat} {s t : State} {o : Host.Outcome State Fault Refusal}
    (h : cutShort k s o = .next t) :
    ∃ done u, o = .next done ∧ t = powerOn u ∧
      u.bus = ((done.pinTrace.drop s.pinTrace.length)[k]?).getD done.bus := by
  obtain ⟨done, hdone, ⟨b, hb, ht⟩ | ⟨hnone, ht⟩⟩ := cutShort_next h
  · exact ⟨done, _, hdone, ht, by rw [hb]; rfl⟩
  · exact ⟨done, done, hdone, ht, by rw [hnone]; rfl⟩

/-- Settles O41: each of the three resets is a `powerOn`, from the bus of its moment. -/
theorem powerCutReleasesTheBus : Obligations.PowerCutReleasesTheBus := by
  intro s t ev es ha hev hstep
  rw [step_of_cons (step_next hstep).1 ha] at hstep
  cases ev with
  | powerCycle =>
    cases hstep
    exact ⟨rfl, rfl, rfl, rfl, rfl, s.bus, rfl, fun _ => rfl, nofun, nofun⟩
  | cutInvocation k =>
    obtain ⟨done, u, hdone, rfl, hbus⟩ := cutShort_powerOn hstep
    refine ⟨rfl, rfl, rfl, rfl, rfl, u.bus, rfl, nofun, fun k' hk => ?_, nofun⟩
    cases hk
    exact ⟨done, hdone, hbus⟩
  | cutRequest k q =>
    obtain ⟨done, u, hdone, rfl, hbus⟩ := cutShort_powerOn hstep
    refine ⟨rfl, rfl, rfl, rfl, rfl, u.bus, rfl, nofun, nofun, fun k' q' hk => ?_⟩
    cases hk
    exact ⟨done, hdone, hbus⟩
  | invoke | append | remove | request => cases hev

end Sys2Proof.Machine
end

section
/-! Proofs for 43_commands.md: what an invocation does in Execute and by the transition table (sections 2, 3 and
5), the work of one invocation (section 4), and a command from its first byte to its last. -/

namespace Sys2Proof.Machine

/-! ### An invocation in Execute -/

section
variable {s : State} (hp : s.pstate = .execute)
include hp

theorem advance_execute_read (hop : s.cmdOp = opcRead) : advance s = exec (.r s.cmdAddr) s :=
  advance_of_fetch_some (by rw [fetch_execute hp, hop, decodePending_read])

theorem advance_execute_write {data : Byte} {rest : List Byte} (hop : s.cmdOp = opcWrite)
    (hq : s.inq = data :: rest) : advance s = exec (.w s.cmdAddr data) s :=
  advance_of_fetch_some (by rw [fetch_execute hp, hop, decodePending_write, hq]; rfl)

theorem advance_execute_noData (hop : s.cmdOp = opcWrite) (hq : s.inq = []) : advance s = .next s :=
  advance_of_fetch_none (by rw [fetch_execute hp, hop, decodePending_write, hq]; rfl)

/-- The permanent stall (43_commands.md R152). -/
theorem advance_execute_other (h₁ : s.cmdOp ≠ opcRead) (h₂ : s.cmdOp ≠ opcWrite) : advance s = .next s :=
  advance_of_fetch_other (fetch_execute hp) h₁ h₂

end

/-- An invocation in an Await state with nothing in `INQ` changes nothing (43_commands.md R141). -/
theorem advance_of_gate_closed {s : State} (hp : s.pstate ≠ .execute) (hg : s.gateA = false) :
    advance s = .next s :=
  advance_of_fetch_none (by rw [fetch_closed hg, State.pending, if_neg hp])

/-- Settles O11, by the stored opcode. -/
theorem executeActsByStoredOpcode : Obligations.ExecuteActsByStoredOpcode := by
  intro s hc ha hp
  rw [step_of_nil hc ha]
  exact ⟨advance_execute_read hp, fun hop _ _ => advance_execute_write hp hop, advance_execute_noData hp,
    advance_execute_other hp⟩

/-! ### What one invocation can have done -/

theorem advance_of_step_nil {s t : State} (ha : s.agenda = []) (h : step s = .next t) :
    advance s = .next t := by
  rwa [step_of_nil (step_next h).1 ha] at h

/-- Phase B starts from Execute, or from AwaitAddressLow by the byte taken just before it. -/
theorem PhaseBFrom.pstate {s u : State} (h : PhaseBFrom s u) :
    s.pstate = .execute ∨ s.pstate = .awaitAddressLow := by
  cases h with
  | pending hp => exact .inl hp
  | taken _ _ hp => exact .inr hp

/-- What phase A leaves for phase B: a queue with one byte less at most, the rest as it was. -/
theorem PhaseBFrom.taken_only {s u : State} (h : PhaseBFrom s u) :
    (∃ n, n ≤ 1 ∧ u.inq = s.inq.drop n) ∧ u.outq = s.outq ∧ u.trace = s.trace := by
  cases h with
  | pending => exact ⟨⟨0, by omega, rfl⟩, rfl, rfl⟩
  | taken b rest _ hq => exact ⟨⟨1, by omega, by rw [hq]; rfl⟩, rfl, rfl⟩

/-- Settles O12, by what the invocation did. -/
theorem onlyTheTableMovesProtocolState : Obligations.OnlyTheTableMovesProtocolState := by
  intro s t ha hstep
  cases advance_case (advance_of_step_nil ha hstep) with
  | stall => exact ⟨.inl, .inl, .inl, .inl⟩
  | opcode b rest hp => simp [hp]
  | highByte b rest hp => simp [hp]
  | lowByte b rest hp => simp [hp]
  | protOn rest hp => simp [hp]
  | protOff rest hp => simp [hp]
  | read u hf hop =>
    have hcmd : s.cmdOp = 0x72 := hop
    rcases hf.pstate with hp | hp <;> simp [hp, hcmd]
  | write u data rest hf hop =>
    have hcmd : s.cmdOp = 0x77 := hop
    rcases hf.pstate with hp | hp <;> simp [hp, hcmd, writePollRead_pstate]

/-- An invocation presents no bus cycle and no reply, or runs a command whole (43_commands.md R153). -/
theorem advance_all_or_nothing {s t : State} (h : advance s = .next t) :
    (t.outq = s.outq ∧ t.trace = s.trace ∧ t.pinTrace = s.pinTrace ∧ t.bus = s.bus ∧ t.device = s.device) ∨
      ∃ b ev evs, t.outq = s.outq ++ [b] ∧ t.trace = s.trace ++ ev :: evs ∧ t.pstate = .awaitOpcode := by
  cases advance_case h with
  | stall | opcode | highByte | lowByte => exact .inl ⟨rfl, rfl, rfl, rfl, rfl⟩
  | protOn rest _ _ _ hu =>
    have hout := runProtect_outq (ws := enableSequence) (ack := ackProtOn)
      (s := (s.setInq rest).setCmdOp opcProtOn) hu
    have htrace := runColumn_trace ((s.setInq rest).setCmdOp opcProtOn) enableSequence
    rw [protEnable_eq_runColumn]
    exact .inr ⟨_, _, _, hout, htrace, rfl⟩
  | protOff rest _ _ _ hu =>
    have hout := runProtect_outq (ws := disableSequence) (ack := ackProtOff)
      (s := (s.setInq rest).setCmdOp opcProtOff) hu
    have htrace := runColumn_trace ((s.setInq rest).setCmdOp opcProtOff) disableSequence
    rw [protDisable_eq_runColumn]
    exact .inr ⟨_, _, _, hout, htrace, rfl⟩
  | read u hf =>
    obtain ⟨_, hout, htr⟩ := hf.taken_only
    have htrace := readByte_trace u.cmdAddr u
    rw [htr] at htrace
    exact .inr ⟨_, _, _, congrArg (· ++ _) hout, htrace, rfl⟩
  | write u data rest hf =>
    obtain ⟨_, hout, htr⟩ := hf.taken_only
    obtain ⟨bs, htrace⟩ := writePollRead_trace u.cmdAddr data (u.setInq rest)
    have hreply := writePollRead_outq u.cmdAddr data (u.setInq rest)
    rw [State.setInq_trace, htr] at htrace
    rw [State.setInq_outq, hout] at hreply
    exact .inr ⟨_, _, _, hreply, htrace, rfl⟩

/-- Phase A takes a byte at most, and so does `w` after it (43_commands.md section 5). -/
theorem advance_takes_two {s t : State} (h : advance s = .next t) : ∃ n, n ≤ 2 ∧ t.inq = s.inq.drop n := by
  cases advance_case h with
  | stall => exact ⟨0, by omega, rfl⟩
  | opcode b rest _ hq | highByte b rest _ hq | lowByte b rest _ hq | protOn rest _ hq | protOff rest _ hq =>
    exact ⟨1, by omega, by simp [hq]⟩
  | read u hf =>
    obtain ⟨⟨n, hn, hq⟩, _⟩ := hf.taken_only
    exact ⟨n, by omega, by simp [hq]⟩
  | write u data rest hf _ hd =>
    obtain ⟨⟨n, hn, hq⟩, _⟩ := hf.taken_only
    have hrest : rest = s.inq.drop (n + 1) := by rw [← List.drop_drop, ← hq, hd]; rfl
    exact ⟨n + 1, by omega, by simp [writePollRead, hrest]⟩

/-- Settles O13: two bytes at most by the inversion of the invocation, and no reply or one. -/
theorem workPerInvocation : Obligations.WorkPerInvocation := by
  intro s t ha hstep
  have hadv := advance_of_step_nil ha hstep
  refine ⟨advance_takes_two hadv, ?_⟩
  rcases advance_all_or_nothing hadv with ⟨hout, _⟩ | ⟨b, _, _, hout, _⟩
  · exact .inl hout
  · exact .inr ⟨b, hout⟩

/-- Settles O14: the stalls one by one, then the inversion of the invocation. -/
theorem noPartialExecution : Obligations.NoPartialExecution := by
  intro s t ha hstep
  have hadv := advance_of_step_nil ha hstep
  have same (h : advance s = .next s) : t = s := by
    rw [h] at hadv
    cases hadv
    rfl
  exact ⟨fun ho => advance_full ho hadv,
    fun hq hp => same (advance_of_gate_closed hp (gateA_closed (.inr (.inl hq)))),
    fun hq hp hop => same (advance_execute_noData hp hop hq),
    fun hp h₁ h₂ => same (advance_execute_other hp h₁ h₂), advance_all_or_nothing hadv⟩

/-! ### Commands, from the bytes that hold them -/

/-- A whole command `e` or `d` at the front of `INQ` runs in the invocation that takes it. -/
theorem advance_protect {s : State} {op : Byte} {rest after : List Byte} {i : Instr} (ho : s.outqFull = false)
    (hp : s.pstate = .awaitOpcode) (hq : s.inq = op :: rest) (hop : op = opcProtOn ∨ op = opcProtOff)
    (hdec : decodeStream (op :: rest) = .ok (i, after)) :
    advance s = exec i ((s.setInq after).setCmdOp op) := by
  rcases hop with rfl | rfl
  · cases hdec; exact advance_of_fetch_some (fetch_protOn hp hq ho)
  · cases hdec; exact advance_of_fetch_some (fetch_protOff hp hq ho)

/-- What the decoder reads from a command with an address: it is what phase B finds in Execute, and all of it but
`w`'s data byte is taken by then. -/
theorem decodePending_of_decodeStream {op hi lo : Byte} {rest after : List Byte} {i : Instr}
    (h₁ : op ≠ opcProtOn) (h₂ : op ≠ opcProtOff)
    (hdec : decodeStream (op :: hi :: lo :: rest) = .ok (i, after)) :
    decodePending op (assembleAddr hi lo) rest.head? = some i ∧
      (op = opcWrite → ∃ data, rest = data :: after) ∧ (op ≠ opcWrite → rest = after) := by
  obtain ⟨hwf, own, henc, hbytes⟩ := decodeStream_ok hdec
  cases i with
  | r a => cases henc; cases hbytes; simp [decodePending_read, show opcRead ≠ opcWrite by decide]
  | w a v => cases henc; cases hbytes; simp [decodePending_write]
  | e => cases henc; cases hbytes; exact absurd rfl h₁
  | d => cases henc; cases hbytes; exact absurd rfl h₂
  | unk b a =>
    have hc := opcodeClass_of_wf_unk hwf
    have hne : b ≠ opcWrite := fun hb => by rw [hb] at hc; cases hc
    cases henc; cases hbytes; simp [decodePending, hc, hne]
  | readByte | writeByte | poll | protEnable | protDisable => cases henc

/-- A command with an address runs in the invocation that takes its low address byte, `w`'s data byte being there. -/
theorem advance_lowByte_command {s : State} {hi lo : Byte} {rest after : List Byte} {i : Instr}
    (ho : s.outqFull = false) (hp : s.pstate = .awaitAddressLow) (h₁ : s.cmdOp ≠ opcProtOn)
    (h₂ : s.cmdOp ≠ opcProtOff) (haddr : s.cmdAddr = storeHigh hi) (hq : s.inq = lo :: rest)
    (hdec : decodeStream (s.cmdOp :: hi :: lo :: rest) = .ok (i, after)) :
    advance s = exec i (((s.setInq rest).setCmdAddr (assembleAddr hi lo)).setPstate .execute) := by
  have hpending := (decodePending_of_decodeStream h₁ h₂ hdec).1
  refine advance_of_fetch_some ?_
  rw [fetch_lowByte hp hq ho, State.takenLow, haddr, orLow_storeHigh, hpending]

/-- Settles O6, by the invocation that completes the command. -/
theorem stepRunsTheDecodedInstruction : Obligations.StepRunsTheDecodedInstruction := by
  refine ⟨fun s => step_of_nil, fun s es hc ha => step_of_cons hc ha, ?_, ?_, ?_, ?_⟩
  · intro s op rest after i ho hp hq hop hdec
    exact (advance_protect ho hp hq hop hdec :)
  · intro s hi lo rest after i ho hp h₁ h₂ haddr hq hdec
    rw [← assembleAddr_append]
    exact (advance_lowByte_command ho hp h₁ h₂ haddr hq hdec :)
  · intro s hi lo data rest after i hp hop haddr hq hdec
    rw [← assembleAddr_append] at haddr
    have hpending := (decodePending_of_decodeStream (by rw [hop]; decide) (by rw [hop]; decide) hdec).1
    exact advance_of_fetch_some (by rw [fetch_execute hp, haddr, hq, ← hpending])
  · intro s q es i hc ha hdec
    rw [step_of_cons hc ha, runEvent, serveRequest, hdec]
    rfl

/-- The state after an opcode byte other than `e` and `d` is taken (43_commands.md R145). -/
abbrev State.takenOpcode (s : State) (op : Byte) (rest : List Byte) : State :=
  ((s.setInq rest).setCmdOp op).setPstate .awaitAddressHigh

/-- The three invocations of a fully buffered command with an address: the third runs it. -/
theorem run_three_command {s : State} {op hi lo : Byte} {rest after : List Byte} {i : Instr}
    (hc : s.cfg.wf = true) (ha : s.agenda = []) (hp : s.pstate = .awaitOpcode) (ho : s.outqFull = false)
    (h₁ : op ≠ opcProtOn) (h₂ : op ≠ opcProtOff) (hq : s.inq = op :: hi :: lo :: rest)
    (hdec : decodeStream (op :: hi :: lo :: rest) = .ok (i, after)) :
    Host.Core.run Sys2Proof.core 3 s =
      exec i ((((s.setInq rest).setCmdOp op).setCmdAddr (assembleAddr hi lo)).setPstate .execute) := by
  have hstep : step s = .next (s.takenOpcode op (hi :: lo :: rest)) :=
    (step_of_nil hc ha).trans (advance_of_fetch_none (fetch_opcode hp hq ho h₁ h₂))
  have htwo := run_two_highByte (s := s.takenOpcode op (hi :: lo :: rest)) hc ha ho rfl rfl
  have hlast := advance_lowByte_command (s := (s.takenOpcode op (hi :: lo :: rest)).takenHigh hi (lo :: rest))
    ho rfl h₁ h₂ rfl rfl hdec
  exact (run_succ_of_next hstep).trans (htwo.trans hlast)

/-- Settles O15: one invocation for `e` and `d`, three for a command with an address. -/
theorem bufferedCommandRunsWhole : Obligations.BufferedCommandRunsWhole := by
  intro s op rest after i hc ha hp ho hq hdec
  rw [hq] at hdec
  refine ⟨fun hop => ?_, fun h₁ h₂ => ?_⟩
  · rw [run_one, step_of_nil hc ha]
    exact (advance_protect ho hp hq hop hdec :)
  · match rest with
    | [] | [_] =>
      have hshort : 2 ≤ operandBytes op := by rw [operandBytes_eq]; split_ifs <;> simp_all
      rw [decodeStream_of_short (lt_of_lt_of_le (by simp) hshort)] at hdec
      cases hdec
    | hi :: lo :: tail =>
      obtain ⟨_, hdata, hno⟩ := decodePending_of_decodeStream h₁ h₂ hdec
      refine ⟨hi, lo, tail, rfl, ?_, hdata, hno⟩
      rw [← assembleAddr_append]
      exact (run_three_command hc ha hp ho h₁ h₂ hq hdec :)

/-- Settles O16: the stall, or the read cycle and its reply. -/
theorem readCommandRepliesWithTheByteRead : Obligations.ReadCommandRepliesWithTheByteRead := by
  intro address s
  dsimp only
  rw [maskAddr_eq]
  refine ⟨fun ho => if_pos ho, fun ho hu => ⟨_, exec_r_of_ready ho hu, ?_⟩⟩
  have hidle := readByte_idle (address := address) ((quiet_iff s).mp hu).1
  rw [readByte_result]
  rw [readByte_state] at hidle ⊢
  exact ⟨rfl, rfl, rfl, hidle, rfl, Device.afterRead_peek s.device, rfl⟩

end Sys2Proof.Machine
end

section
/-! Proofs for runs: the transport's acts (60_exceptions.md section 8), the permanent stall and the end of a run
(43_commands.md section 3, 70_reset_and_hazards.md section 5), the round trip and fragmentation (43_commands.md
section 5). -/

namespace Sys2Proof.Machine

/-! ### The transport -/

/-- An act of the transport moves bytes between its two ends of each stream: what `s` and `t` have in common. -/
structure State.SameStreams (s t : State) : Prop where
  input : t.inq ++ t.hostStream = s.inq ++ s.hostStream
  output : t.hostReceived ++ t.outq = s.hostReceived ++ s.outq
  inqBounded : s.inq.length ≤ s.cfg.qcap → t.inq.length ≤ s.cfg.qcap
  frame : { t with
      inq := s.inq, outq := s.outq, hostStream := s.hostStream, hostReceived := s.hostReceived } = s

theorem State.SameStreams.refl (s : State) : s.SameStreams s := ⟨rfl, rfl, id, rfl⟩

theorem transportAppend_sameStreams (s : State) : s.SameStreams (transportAppend s) := by
  rcases transportAppend_cases s with ⟨heq, _⟩ | ⟨b, rest, hs, hfull, heq⟩
  · rw [heq]; exact .refl s
  · rw [heq]
    have hroom : s.inq.length < s.cfg.qcap := by simpa [State.inqFull] using hfull
    exact ⟨by simp [hs], rfl, fun _ => by simpa using hroom, rfl⟩

theorem transportRemove_sameStreams (s : State) : s.SameStreams (transportRemove s) := by
  rcases transportRemove_cases s with ⟨heq, _⟩ | ⟨b, rest, hs, heq⟩
  · rw [heq]; exact .refl s
  · rw [heq]
    exact ⟨rfl, by simp [hs], id, rfl⟩

theorem transportAppend_moves {s : State} (hs : s.hostStream ≠ []) (hfull : s.inqFull = false) :
    (transportAppend s).inq.length = s.inq.length + 1 := by
  rcases transportAppend_cases s with ⟨_, h | h⟩ | ⟨b, rest, _, _, heq⟩
  · exact absurd h hs
  · exact absurd h (by simp [hfull])
  · simp [heq]

theorem transportRemove_moves {s : State} (hs : s.outq ≠ []) :
    s.outq.length = (transportRemove s).outq.length + 1 := by
  rcases transportRemove_cases s with ⟨_, h⟩ | ⟨b, rest, hq, heq⟩
  · exact absurd h hs
  · simp [heq, hq]

/-- Settles O35, act by act. -/
theorem transportKeepsBothStreams : Obligations.TransportKeepsBothStreams := by
  intro s t ev es hc ha hev hstep
  rw [step_of_cons hc ha] at hstep
  rcases hev with rfl | rfl
  · cases hstep
    obtain ⟨hin, hout, hlen, hframe⟩ := transportAppend_sameStreams (s.setAgenda es)
    exact ⟨hin, hout, hlen, fun _ => transportAppend_moves (s := s.setAgenda es), nofun,
      congrArg (State.setAgenda · s.agenda) hframe⟩
  · cases hstep
    obtain ⟨hin, hout, hlen, hframe⟩ := transportRemove_sameStreams (s.setAgenda es)
    exact ⟨hin, hout, hlen, nofun, fun _ => transportRemove_moves (s := s.setAgenda es),
      congrArg (State.setAgenda · s.agenda) hframe⟩

/-! ### Ordinary runs -/

/-- A step of an ordinary run is an invocation or an act of the transport, with the rest of the agenda left. -/
theorem step_ordinary {s t : State} (hord : ∀ ev ∈ s.agenda, ev.ordinary = true) (h : step s = .next t) :
    ∃ es, (∀ ev ∈ es, ev.ordinary = true) ∧
      (advance (s.setAgenda es) = .next t ∨ t = transportAppend (s.setAgenda es) ∨
        t = transportRemove (s.setAgenda es)) := by
  obtain ⟨_, ⟨ha, hadv⟩ | ⟨ev, es, ha, hrun⟩⟩ := step_next h
  · refine ⟨[], nofun, .inl ?_⟩
    rwa [← ha]
  · obtain ⟨hev, hes⟩ := List.forall_mem_cons.mp (ha ▸ hord)
    refine ⟨es, hes, ?_⟩
    cases ev with
    | invoke => exact .inl hrun
    | append => cases hrun; exact .inr (.inl rfl)
    | remove => cases hrun; exact .inr (.inr rfl)
    | request | powerCycle | cutInvocation | cutRequest => cases hev

theorem exec_agenda {i : Instr} {s t : State} (h : exec i s = .next t) : t.agenda = s.agenda := by
  cases exec_case h with
  | w => simp [writePollRead]
  | _ => simp

theorem FetchCase.agenda {s : State} {r : State × Option Instr} (hf : FetchCase s r) :
    r.1.agenda = s.agenda := by
  cases hf <;> rfl

theorem advance_agenda {s t : State} (h : advance s = .next t) : t.agenda = s.agenda := by
  have hag := (fetch_case s).agenda
  rcases advance_next h with hf | ⟨u, i, hf, hexec⟩
  · rwa [hf] at hag
  · rw [hf] at hag
    exact (exec_agenda hexec).trans hag

theorem State.SameStreams.agenda {s t : State} (h : s.SameStreams t) : t.agenda = s.agenda :=
  (congrArg State.agenda h.frame :)

/-- The induction over an ordinary run: what does not look at the agenda, and every invocation and both acts of the
transport keep, holds at its end. -/
theorem run_ordinary_keeps {P : State → Prop} (hagenda : ∀ s es, P s → P (s.setAgenda es))
    (hadvance : ∀ s t, P s → advance s = .next t → P t)
    (happend : ∀ s, P s → P (transportAppend s)) (hremove : ∀ s, P s → P (transportRemove s))
    {n : Nat} {s t : State} (hs : P s) (hord : ∀ ev ∈ s.agenda, ev.ordinary = true)
    (hrun : Host.Core.run Sys2Proof.core n s = .next t) : P t := by
  induction n generalizing s with
  | zero => cases hrun; exact hs
  | succ n ih =>
    obtain ⟨u, hstep, hrest⟩ := run_succ_next hrun
    obtain ⟨es, hes, hadv | rfl | rfl⟩ := step_ordinary hord hstep
    · exact ih (hadvance _ _ (hagenda s es hs) hadv) (by rw [advance_agenda hadv]; exact hes) hrest
    · exact ih (happend _ (hagenda s es hs))
        (by rw [(transportAppend_sameStreams _).agenda]; exact hes) hrest
    · exact ih (hremove _ (hagenda s es hs))
        (by rw [(transportRemove_sameStreams _).agenda]; exact hes) hrest

/-! ### The permanent stall, and the end of a run -/

/-- Settles O20: `unk` stalls, and a step that changes nothing changes nothing for ever. -/
theorem unrecognisedOpcodeStallsForEver : Obligations.UnrecognisedOpcodeStallsForEver :=
  ⟨fun _ _ _ => rfl, fun _ n hc ha hp h₁ h₂ =>
    run_fixed ((step_of_nil hc ha).trans (advance_execute_other hp h₁ h₂)) n⟩

theorem advance_wedged {s : State} (h : s.wedged) : advance s = .next s :=
  advance_execute_other h.1 h.2.1 h.2.2

/-- What the transport can still do after the permanent stall began in `s`. -/
structure State.StallGoesOn (s t : State) : Prop where
  wedged : t.wedged
  cmdOp : t.cmdOp = s.cmdOp
  cmdAddr : t.cmdAddr = s.cmdAddr
  trace : t.trace = s.trace
  pinTrace : t.pinTrace = s.pinTrace
  inq : s.inq <+: t.inq
  replies : t.hostReceived ++ t.outq = s.hostReceived ++ s.outq

theorem transportAppend_stallGoesOn {s u : State} (h : s.StallGoesOn u) : s.StallGoesOn (transportAppend u) := by
  rcases transportAppend_cases u with ⟨heq, _⟩ | ⟨b, rest, _, _, heq⟩
  · rwa [heq]
  · rw [heq]
    exact { h with inq := h.inq.trans (List.prefix_append _ _) }

theorem transportRemove_stallGoesOn {s u : State} (h : s.StallGoesOn u) : s.StallGoesOn (transportRemove u) := by
  have hstreams := transportRemove_sameStreams u
  rcases transportRemove_cases u with ⟨heq, _⟩ | ⟨b, rest, _, heq⟩
  · rwa [heq]
  · rw [heq] at hstreams ⊢
    exact { h with replies := hstreams.output.trans h.replies }

/-- Settles O21, by induction over the run: an invocation changes nothing, and the transport only moves bytes. -/
theorem transportCannotEndTheStall : Obligations.TransportCannotEndTheStall := by
  intro s t n hw hord hrun
  have hend : s.StallGoesOn t := by
    refine run_ordinary_keeps (P := s.StallGoesOn) (fun _ _ h => { h with }) (fun u v h hadv => ?_)
      (fun _ => transportAppend_stallGoesOn) (fun _ => transportRemove_stallGoesOn)
      ⟨hw, rfl, rfl, rfl, rfl, List.prefix_rfl, rfl⟩ hord hrun
    rw [advance_wedged h.wedged] at hadv
    cases hadv
    exact h
  exact ⟨hend.wedged.1, hend.cmdOp, hend.cmdAddr, hend.trace, hend.pinTrace, hend.inq, hend.replies⟩

/-- Settles O47: in AwaitOpcode with `INQ` empty the gate is closed for ever. -/
theorem completeRunStaysComplete : Obligations.CompleteRunStaysComplete := by
  rintro s n hc ha ⟨_, hq, hp, _⟩
  exact run_fixed (step_of_gate_closed hc ha (by simp [hp]) (gateA_closed (.inr (.inl hq)))) n

/-- An invocation of a stuck run changes nothing (70_reset_and_hazards.md R221). -/
theorem advance_stuck {s : State} (h : s.stuck) : advance s = .next s := by
  rcases h with hw | ⟨_, hq, hp | hp | ⟨hp, hop⟩⟩
  · exact advance_wedged hw
  · exact advance_of_gate_closed (by simp [hp]) (gateA_closed (.inr (.inl hq)))
  · exact advance_of_gate_closed (by simp [hp]) (gateA_closed (.inr (.inl hq)))
  · exact advance_execute_noData hp hop hq

theorem transportAppend_stuck {s : State} (h : s.stuck) : (transportAppend s).stuck := by
  rcases transportAppend_cases s with ⟨heq, _⟩ | ⟨b, rest, hs, _, heq⟩
  · rwa [heq]
  · rw [heq]
    rcases h with hw | ⟨hnone, _⟩
    · exact .inl hw
    · cases hs.symm.trans hnone

theorem transportRemove_stuck {s : State} (h : s.stuck) : (transportRemove s).stuck := by
  rcases transportRemove_cases s with ⟨heq, _⟩ | ⟨b, rest, _, heq⟩
  · rwa [heq]
  · rw [heq]; exact h

theorem not_complete_of_stuck {s : State} (h : s.stuck) : ¬ s.complete := by
  rintro ⟨_, _, hp, _⟩
  rcases h with ⟨hp', _⟩ | ⟨_, _, hp' | hp' | ⟨hp', _⟩⟩ <;> cases hp.symm.trans hp'

/-- Settles O48, by induction over the run. -/
theorem stuckRunNeverCompletes : Obligations.StuckRunNeverCompletes := by
  intro s t n hs hord hrun
  have hend : t.stuck := by
    refine run_ordinary_keeps (P := State.stuck) (fun _ _ h => h) (fun u v h hadv => ?_)
      (fun _ => transportAppend_stuck) (fun _ => transportRemove_stuck) hs hord hrun
    rw [advance_stuck h] at hadv
    cases hadv
    exact h
  exact ⟨hend, not_complete_of_stuck hend⟩

end Sys2Proof.Machine
end

section
/-! Proofs for the reference devices (20_memory.md section 6) and for the properties of the block together with a
device: the round trip and fragmentation (43_commands.md section 5). -/

namespace Sys2Proof.Machine

/-! ### The reference devices -/

theorem answer_simDev {s : State} {mem : Memory} (h : s.device = .simDev mem) (a : DevAddr) :
    s.answer a = mem.read a := by
  rw [State.answer, h, Device.answer]

/-- A read after a write, at every address. -/
theorem Memory.read_write {m : Memory} (h : m.wf = true) (a x : DevAddr) (v : Byte) :
    (m.write a v).read x = if x = a then v else m.read x := by
  split
  · rename_i heq
    rw [heq, Memory.read_write_same h]
  · exact Memory.read_write_other ‹_›

/-- Settles O36: WRITE_BYTE stores at the masked address, and a read cycle reads the contents. -/
theorem simDevStoresEachWrite : Obligations.SimDevStoresEachWrite := by
  intro s t address v mem hd hwf hexec
  have hdev : t.device = .simDev (mem.write (maskAddr address) v) := by
    cases exec_case hexec
    rw [writeByte_device, hd, Device.afterWrite]
  refine ⟨by rw [hdev]; exact Memory.write_wf hwf, fun x => ?_⟩
  rw [maskAddr_eq, answer_simDev hdev, answer_simDev hd, Memory.read_write hwf]

theorem answer_script {s : State} {b : Byte} {rest : List Byte} (h : s.device = .script (b :: rest))
    (a : DevAddr) : s.answer a = b := by
  rw [State.answer, h, Device.answer]

theorem emitRead_script {s : State} {b : Byte} {rest : List Byte} (h : s.device = .script (b :: rest))
    (a : DevAddr) (x : Byte) : (s.emitRead a x).device = .script rest := by
  rw [State.emitRead_device, h, Device.afterRead, List.tail_cons]

theorem answers_script {bs more : List Byte} {s : State} (h : s.device = .script (bs ++ more)) (a : DevAddr) :
    State.answers a bs.length s = bs := by
  induction bs generalizing s with
  | nil => rfl
  | cons b bs ih =>
    rw [List.length_cons, State.answers, answer_script h, ih (emitRead_script h a b)]

/-- Settles O37, by induction over the script. -/
theorem scriptAnswersInOrder : Obligations.ScriptAnswersInOrder := by
  refine fun s bs more a h => ⟨answers_script h a, fun v b rest heq => ?_⟩
  rw [heq] at h
  have hwrite : (s.emitWrite a v).device = .script (b :: rest) := by
    rw [State.emitWrite_device, h, Device.afterWrite]
  exact ⟨answer_script hwrite a, emitRead_script h a b⟩

/-! ### The round trip -/

/-- Two runs of a machine one after the other. -/
theorem core_run_add (M : Host.Core) {m : Nat} {s t : M.State} (h : M.run m s = .next t) (n : Nat) :
    M.run (m + n) s = M.run n t := by
  induction m generalizing s with
  | zero => cases h; rw [Nat.zero_add]
  | succ m ih =>
    obtain ⟨u, hstep, hrest⟩ := core_run_next M h
    rw [Nat.succ_add, core_run_of_next M hstep, ih hrest]

/-- `w` on `SimDev` stores its byte, and the read that follows its poll gives it back. -/
theorem writePollRead_simDev {a : Addr} {v : Byte} {s : State} {mem : Memory} (hd : s.device = .simDev mem)
    (hwf : mem.wf = true) (hb : 1 ≤ s.cfg.pollBound) :
    (writePollRead a v s).device = .simDev (mem.write (maskAddr a) v) ∧
      (writePollRead a v s).outq = s.outq ++ [v] := by
  obtain ⟨k, hrun⟩ := poll_run a v (s := writeByte a v s) (by simpa using hb)
  have hpolled : (poll a v (writeByte a v s)).2.device = .simDev (mem.write (maskAddr a) v) := by
    rw [hrun.device, writeByte_device, hd, Device.afterWrite]
    exact Function.iterate_fixed rfl k
  refine ⟨?_, ?_⟩
  · rw [writePollRead, State.reply_device, readByte_device, hpolled, Device.afterRead]
  · rw [writePollRead_outq, answer_simDev hpolled, Memory.read_write_same hwf]

theorem writePollRead_quiet {a : Addr} {v : Byte} {s : State} (h : s.quiet = true) :
    (writePollRead a v s).quiet = true := by
  obtain ⟨hbus, _, hrunner⟩ := (quiet_iff s).mp h
  exact (quiet_iff _).mpr ⟨writePollRead_idle hbus, by simp [writePollRead], by simpa [writePollRead] using hrunner⟩

section
variable {s : State} {hi lo : Byte} {rest : List Byte}
variable (hc : s.cfg.wf = true) (ha : s.agenda = []) (hu : s.quiet = true) (hp : s.pstate = .awaitOpcode)
  (ho : s.outqFull = false)
include hc ha hu hp ho

/-- The three invocations of a buffered `w` on `SimDev`: the byte is stored and is the reply, and the block is
ready for the next command. -/
theorem run_three_write_simDev {v : Byte} {mem : Memory} (hq : s.inq = opcWrite :: hi :: lo :: v :: rest)
    (hd : s.device = .simDev mem) (hwf : mem.wf = true) :
    ∃ t, Host.Core.run Sys2Proof.core 3 s = .next t ∧ t.inq = rest ∧ t.outq = s.outq ++ [v] ∧
      t.device = .simDev (mem.write (maskAddr (assembleAddr hi lo)) v) ∧ t.pstate = .awaitOpcode ∧
      t.cfg = s.cfg ∧ t.agenda = [] ∧ t.quiet = true := by
  have hb := pollBound_pos_of_wf hc
  have hrun := run_three_command hc ha hp ho (by decide) (by decide) hq rfl
  refine ⟨_, hrun.trans (exec_w_of_ready rfl ho hu hb), ?_⟩
  obtain ⟨hstored, hreply⟩ := writePollRead_simDev (a := assembleAddr hi lo) (v := v)
    (s := ((((s.setInq rest).setCmdOp opcWrite).setCmdAddr (assembleAddr hi lo)).setPstate .execute)) hd hwf hb
  exact ⟨by simp [writePollRead], hreply, hstored, rfl, by simp [writePollRead], by simpa [writePollRead] using ha,
    writePollRead_quiet hu⟩

/-- The three invocations of a buffered `r`. -/
theorem run_three_read (hq : s.inq = opcRead :: hi :: lo :: rest) :
    ∃ t, Host.Core.run Sys2Proof.core 3 s = .next t ∧ t.inq = rest ∧ t.pstate = .awaitOpcode ∧
      t.outq = s.outq ++ [s.answer (maskAddr (assembleAddr hi lo))] :=
  have hrun := run_three_command hc ha hp ho (by decide) (by decide) hq rfl
  ⟨_, hrun.trans (exec_r_of_ready ho hu), by simp, rfl, rfl⟩

end

/-- Settles O38: the write leaves the byte in the contents, where the read finds it. -/
theorem writeThenReadRoundTrips : Obligations.WriteThenReadRoundTrips := by
  intro s hi lo v rest mem hc ha hu hd hwf hp hq hroom
  have ho : s.outqFull = false := decide_eq_false (by omega)
  obtain ⟨t, hwrite, hinq, hout, hstored, hpt, hcfg, hat, hut⟩ :=
    run_three_write_simDev hc ha hu hp ho hq hd hwf
  have hlen : t.outq.length = s.outq.length + 1 := by rw [hout, List.length_append, List.length_singleton]
  have hot : t.outqFull = false := decide_eq_false (by rw [hcfg, hlen]; omega)
  obtain ⟨t', hread, hinq', hpt', hout'⟩ := run_three_read (by rw [hcfg]; exact hc) hat hut hpt hot hinq
  refine ⟨t', (core_run_add Sys2Proof.core hwrite 3).trans hread, ?_, hinq', hpt'⟩
  rw [hout', hout, answer_simDev hstored, Memory.read_write_same hwf, List.append_assoc]
  rfl

/-! ### Fragmentation -/

/-- `s` with all of the host's bytes in `INQ` and all of the replies in `OUTQ`, where they lie between the block and
the host, and what the environments will do, no longer show. -/
def State.pour (s : State) : State :=
  { s with
    inq := s.inq ++ s.hostStream, hostStream := [], outq := s.hostReceived ++ s.outq, hostReceived := []
    agenda := [] }

/-- The next thing the sequencer does when `INQ` holds all there is and `OUTQ` has room: it takes one byte, or runs a
command that is complete. -/
def State.act (s : State) : Option State :=
  match s.pstate, s.inq with
  | .awaitOpcode, b :: rest =>
    if b = opcProtOn then some (((s.setInq rest).setCmdOp b).runProtect enableSequence ackProtOn)
    else if b = opcProtOff then some (((s.setInq rest).setCmdOp b).runProtect disableSequence ackProtOff)
    else some (s.takenOpcode b rest)
  | .awaitAddressHigh, b :: rest => some (s.takenHigh b rest)
  | .awaitAddressLow, b :: rest => some (s.takenLow b rest)
  | .execute, q =>
    if s.cmdOp = opcRead then some ((readByte s.cmdAddr s).2.reply (readByte s.cmdAddr s).1)
    else if s.cmdOp = opcWrite then q.head?.map fun data => writePollRead s.cmdAddr data (s.setInq s.inq.tail)
    else none
  | _, [] => none

/-- From `s` the sequencer gets to `t` by some number of acts. -/
abbrev State.Acts : State → State → Prop := Relation.ReflTransGen fun s t => s.act = some t

/-- The block's state and the two streams' contents determine what the sequencer does, so of two states it gets to
one comes before the other. -/
theorem acts_total {s t u : State} (ht : s.Acts t) (hu : s.Acts u) : t.Acts u ∨ u.Acts t :=
  Relation.ReflTransGen.total_of_right_unique (fun _ _ _ h₁ h₂ => Option.some.inj (h₁.symm.trans h₂)) ht hu

section
variable {s : State}

theorem act_protOn {rest : List Byte} (hp : s.pstate = .awaitOpcode) (hq : s.inq = opcProtOn :: rest) :
    s.act = some (((s.setInq rest).setCmdOp opcProtOn).runProtect enableSequence ackProtOn) := by
  simp [State.act, hp, hq]

theorem act_protOff {rest : List Byte} (hp : s.pstate = .awaitOpcode) (hq : s.inq = opcProtOff :: rest) :
    s.act = some (((s.setInq rest).setCmdOp opcProtOff).runProtect disableSequence ackProtOff) := by
  simp [State.act, hp, hq, show opcProtOff ≠ opcProtOn by decide]

theorem act_opcode {b : Byte} {rest : List Byte} (hp : s.pstate = .awaitOpcode) (hq : s.inq = b :: rest)
    (h₁ : b ≠ opcProtOn) (h₂ : b ≠ opcProtOff) : s.act = some (s.takenOpcode b rest) := by
  simp [State.act, hp, hq, h₁, h₂]

theorem act_highByte {b : Byte} {rest : List Byte} (hp : s.pstate = .awaitAddressHigh)
    (hq : s.inq = b :: rest) : s.act = some (s.takenHigh b rest) := by
  simp [State.act, hp, hq]

theorem act_lowByte {b : Byte} {rest : List Byte} (hp : s.pstate = .awaitAddressLow)
    (hq : s.inq = b :: rest) : s.act = some (s.takenLow b rest) := by
  simp [State.act, hp, hq]

theorem act_read (hp : s.pstate = .execute) (hop : s.cmdOp = opcRead) :
    s.act = some ((readByte s.cmdAddr s).2.reply (readByte s.cmdAddr s).1) := by
  simp [State.act, hp, hop]

theorem act_write {data : Byte} {rest : List Byte} (hp : s.pstate = .execute) (hop : s.cmdOp = opcWrite)
    (hq : s.inq = data :: rest) : s.act = some (writePollRead s.cmdAddr data (s.setInq rest)) := by
  simp [State.act, hp, hop, hq, show opcWrite ≠ opcRead by decide]

end

/-- What the host sees of the block, its bus events and its replies, only grows from `s` to `t`. -/
structure State.OutputGrows (s t : State) : Prop where
  trace : s.trace <+: t.trace
  replies : s.outq <+: t.outq

theorem runColumn_outq (ws : List (Addr × Byte)) (s : State) : (s.runColumn ws).outq = s.outq :=
  runSequence_frame (f := State.outq) (.of_unread fun _ _ _ _ _ _ _ _ => rfl) 0 ws (s.setRunner .sWrite)

theorem runProtect_outputGrows (ws : List (Addr × Byte)) (ack : Byte) (s : State) :
    s.OutputGrows (s.runProtect ws ack) := by
  refine ⟨(runColumn_recordsGrow ws s).trace, ?_⟩
  rw [State.reply_outq, runColumn_outq]
  exact List.prefix_append _ _

theorem readReply_outputGrows (a : Addr) (s : State) :
    s.OutputGrows ((readByte a s).2.reply (readByte a s).1) := by
  refine ⟨(readByte_recordsGrow a s).trace, ?_⟩
  rw [State.reply_outq, readByte_outq]
  exact List.prefix_append _ _

theorem writePollRead_outputGrows (a : Addr) (v : Byte) (s : State) : s.OutputGrows (writePollRead a v s) := by
  refine ⟨(writePollRead_recordsGrow a v s).trace, ?_⟩
  rw [writePollRead_outq]
  exact List.prefix_append _ _

theorem act_outputGrows {s t : State} (h : s.act = some t) : s.OutputGrows t := by
  unfold State.act at h
  split at h
  case h_1 b rest _ _ =>
    split_ifs at h <;> cases h
    · have hgrow := runProtect_outputGrows enableSequence ackProtOn ((s.setInq rest).setCmdOp b)
      exact ⟨hgrow.trace, hgrow.replies⟩
    · have hgrow := runProtect_outputGrows disableSequence ackProtOff ((s.setInq rest).setCmdOp b)
      exact ⟨hgrow.trace, hgrow.replies⟩
    · exact ⟨List.prefix_rfl, List.prefix_rfl⟩
  case h_2 | h_3 => cases h; exact ⟨List.prefix_rfl, List.prefix_rfl⟩
  case h_4 =>
    split_ifs at h
    · cases h; exact readReply_outputGrows s.cmdAddr s
    · obtain ⟨data, _, rfl⟩ := Option.map_eq_some_iff.mp h
      have hgrow := writePollRead_outputGrows s.cmdAddr data (s.setInq s.inq.tail)
      exact ⟨hgrow.trace, hgrow.replies⟩
  case h_5 => cases h

theorem acts_outputGrows {s t : State} (h : s.Acts t) : s.OutputGrows t := by
  induction h with
  | refl => exact ⟨List.prefix_rfl, List.prefix_rfl⟩
  | tail _ hact ih =>
    have hgrow := act_outputGrows hact
    exact ⟨ih.trace.trans hgrow.trace, ih.replies.trans hgrow.replies⟩

/-! ### An invocation is some number of acts -/

theorem pour_readByte (a : Addr) (s : State) : (readByte a s).2.pour = (readByte a s.pour).2 := rfl

theorem pour_writeByte (a : Addr) (v : Byte) (s : State) : (writeByte a v s).pour = writeByte a v s.pour := rfl

theorem pour_reply (b : Byte) (s : State) : (s.reply b).pour = s.pour.reply b := by
  simp only [State.pour, State.reply, State.enqOut, State.setPstate, List.append_assoc]

/-- The end of a round of POLL's loop: the sampled byte and the count of reads stored (41_poller.md R120). -/
def State.endRound (s : State) (b : Byte) : State :=
  ((s.setPollObs b).setPollIter (s.pollIter + 1)).setPoller .pCheck

theorem pour_endRound (b : Byte) (s : State) : (s.endRound b).pour = s.pour.endRound b := rfl

theorem pollRead_eq_endRound (a : Addr) (s : State) :
    pollRead a s = (readByte a (s.setPoller .pRead)).2.endRound (s.answer (maskAddr a)) := rfl

theorem pour_pollRead (a : Addr) (s : State) : (pollRead a s).pour = pollRead a s.pour := by
  rw [pollRead_eq_endRound, pollRead_eq_endRound, pour_endRound, pour_readByte]
  rfl

theorem pour_pollLoop (a : Addr) (x : Byte) (n : Nat) (s : State) :
    (pollLoop a x n s).pour = pollLoop a x n s.pour := by
  induction n generalizing s with
  | zero => rfl
  | succ n ih =>
    have hobs : (pollRead a s).pour.pollObs = (pollRead a s).pollObs := rfl
    simp only [pollLoop, ← pour_pollRead, hobs]
    split
    · rfl
    · exact ih _

theorem pour_poll (a : Addr) (x : Byte) (s : State) : (poll a x s).2.pour = (poll a x s.pour).2 :=
  congrArg (State.setPoller · .pIdle) (pour_pollLoop a x s.cfg.pollBound (s.setPollIter 0))

theorem pour_runSequence (i : BitVec 3) (ws : List (Addr × Byte)) (s : State) :
    (runSequence i ws s).pour = runSequence i ws s.pour := by
  induction ws generalizing i s with
  | nil => rfl
  | cons w ws ih => exact ih _ _

theorem pour_setRunner (c : RunCtl) (s : State) : (s.setRunner c).pour = s.pour.setRunner c := rfl

theorem pour_runProtect (ws : List (Addr × Byte)) (ack : Byte) (s : State) :
    (s.runProtect ws ack).pour = s.pour.runProtect ws ack := by
  rw [State.runProtect, State.runColumn, pour_reply, pour_setRunner, pour_runSequence, pour_setRunner]
  rfl

theorem pour_readReply (a : Addr) (s : State) :
    ((readByte a s).2.reply (readByte a s).1).pour = (readByte a s.pour).2.reply (readByte a s.pour).1 :=
  pour_reply _ _

theorem pour_writePollRead (a : Addr) (v : Byte) (s : State) :
    (writePollRead a v s).pour = writePollRead a v s.pour := by
  rw [writePollRead, pour_readReply, pour_poll, pour_writeByte]
  rfl

theorem pour_inq {s : State} {b : Byte} {rest : List Byte} (hq : s.inq = b :: rest) :
    s.pour.inq = b :: (rest ++ s.hostStream) := by
  simp [State.pour, hq]

theorem phaseB_acts {s u : State} (h : PhaseBFrom s u) :
    s.pour.Acts u.pour ∧ u.pstate = .execute ∧ u.cmdOp = s.cmdOp := by
  cases h with
  | pending hp => exact ⟨.refl, hp, rfl⟩
  | taken b rest hp hq => exact ⟨.single (act_lowByte (s := s.pour) hp (pour_inq hq)), rfl, rfl⟩

theorem advance_acts {s t : State} (h : advance s = .next t) : s.pour.Acts t.pour := by
  cases advance_case h with
  | stall => exact .refl
  | opcode b rest hp hq _ h₁ h₂ => exact .single (act_opcode (s := s.pour) hp (pour_inq hq) h₁ h₂)
  | highByte b rest hp hq => exact .single (act_highByte (s := s.pour) hp (pour_inq hq))
  | lowByte b rest hp hq => exact .single (act_lowByte (s := s.pour) hp (pour_inq hq))
  | protOn rest hp hq =>
    rw [protEnable_eq_runColumn, pour_runProtect]
    exact .single (act_protOn (s := s.pour) hp (pour_inq hq))
  | protOff rest hp hq =>
    rw [protDisable_eq_runColumn, pour_runProtect]
    exact .single (act_protOff (s := s.pour) hp (pour_inq hq))
  | read u hf hop =>
    obtain ⟨hacts, hp, hcmd⟩ := phaseB_acts hf
    rw [pour_readReply]
    exact hacts.tail (act_read (s := u.pour) hp (hcmd.trans hop))
  | write u data rest hf hop hd =>
    obtain ⟨hacts, hp, hcmd⟩ := phaseB_acts hf
    rw [pour_writePollRead]
    exact hacts.tail (act_write (s := u.pour) hp (hcmd.trans hop) (pour_inq hd))

/-- Two states that differ only in where the bytes of the two streams lie, and in what the environments will do, are
one when poured. -/
theorem pour_eq {s t : State} (hin : s.inq ++ s.hostStream = t.inq ++ t.hostStream)
    (hout : s.hostReceived ++ s.outq = t.hostReceived ++ t.outq)
    (hrest : { s with
      inq := t.inq, hostStream := t.hostStream, outq := t.outq, hostReceived := t.hostReceived
      agenda := t.agenda } = t) : s.pour = t.pour := by
  rw [← hrest, State.pour, hin, hout]
  rfl

theorem State.SameStreams.pour_eq {s t : State} (h : s.SameStreams t) : t.pour = s.pour :=
  Machine.pour_eq h.input h.output ((congrArg (State.setAgenda · s.agenda) h.frame :))

/-- An ordinary run is some number of acts of the sequencer on the two streams. -/
theorem run_acts {n : Nat} {s t : State} (hord : ∀ ev ∈ s.agenda, ev.ordinary = true)
    (hrun : Host.Core.run Sys2Proof.core n s = .next t) : s.pour.Acts t.pour :=
  run_ordinary_keeps (P := fun u => s.pour.Acts u.pour) (fun _ _ h => h)
    (fun _ _ h hadv => h.trans (advance_acts hadv))
    (fun u h => (transportAppend_sameStreams u).pour_eq ▸ h)
    (fun u h => (transportRemove_sameStreams u).pour_eq ▸ h) .refl hord hrun

/-- Settles O39: poured, the two states are one, so the acts of one run are the first acts of the other. -/
theorem fragmentationDoesNotMatter : Obligations.FragmentationDoesNotMatter := by
  intro s₁ s₂ t₁ t₂ n₁ n₂ _ _ hrest hin hout hord₁ hord₂ hrun₁ hrun₂
  have hstart : s₁.pour = s₂.pour := pour_eq hin hout hrest
  rcases acts_total (hstart ▸ run_acts hord₁ hrun₁) (run_acts hord₂ hrun₂) with h | h
  · exact .inl ⟨(acts_outputGrows h).trace, (acts_outputGrows h).replies⟩
  · exact .inr ⟨(acts_outputGrows h).trace, (acts_outputGrows h).replies⟩

end Sys2Proof.Machine
end

section
/-! Proofs for the operation port: READ_BYTE and WRITE_BYTE pin by pin (40_bus_cycles.md sections 2, 3 and 5), POLL
(41_poller.md), and the two state machines that are POLL and the runner (41_poller.md section 3, 42_protection.md
section 2). -/

namespace Sys2Proof.Machine

/-! ### READ_BYTE and WRITE_BYTE -/

theorem read_cycle_end {a : DevAddr} {t : Nat} {b : Bus} (h : b.idle = true) :
    busAfterAll (readToSample a t ++ readRelease) b = ⟨a, false, b.dOut, false, true, true, true, true⟩ := by
  conv_lhs => rw [Bus.eq_of_idle h]
  rfl

theorem write_cycle_end {a : DevAddr} {v : Byte} {t : Nat} {b : Bus} (h : b.idle = true) :
    busAfterAll (writeToEdge a v t ++ writeRelease) b = ⟨a, false, v, false, true, true, true, true⟩ := by
  conv_lhs => rw [Bus.eq_of_idle h]
  rfl

/-- Settles O22: the levels of a read cycle from the idle bus, and READ_BYTE's whole effect. -/
theorem readByteRunsOneReadCycle : Obligations.ReadByteRunsOneReadCycle := by
  intro address s hu
  have hidle := ((quiet_iff s).mp hu).1
  dsimp only
  rw [maskAddr_eq]
  refine ⟨_, whenQuiet_of_quiet hu, ?_⟩
  rw [readByte_result, readByte_state, read_cycle_levels hidle, read_cycle_end hidle]
  exact ⟨rfl, rfl, rfl, rfl, rfl, Device.afterRead_peek s.device, rfl⟩

/-- Settles O23: the levels of a write cycle from the idle bus, and WRITE_BYTE's whole effect. -/
theorem writeByteRunsOneWriteCycle : Obligations.WriteByteRunsOneWriteCycle := by
  intro address v s hu
  have hidle := ((quiet_iff s).mp hu).1
  dsimp only
  rw [maskAddr_eq]
  refine ⟨_, whenQuiet_of_quiet hu, ?_⟩
  rw [writeByte_state, write_cycle_levels hidle, write_cycle_end hidle]
  exact ⟨rfl, rfl, rfl, rfl, fun _ => Device.afterWrite_peek_other, rfl⟩

/-! ### POLL -/

/-- What POLL on the port leaves alone, from a quiet state. -/
theorem poll_frame_of_quiet (a : Addr) (x : Byte) {s : State} (h : s.quiet = true) :
    { (poll a x s).2 with
      bus := s.bus, pinTrace := s.pinTrace, trace := s.trace, device := s.device, draw := s.draw
      pollIter := s.pollIter, pollObs := s.pollObs } = s := by
  obtain ⟨_, hpoller, _⟩ := (quiet_iff s).mp h
  have hback : s.putBack (poll a x s).2 = s := poll_frame (putBack_pollFrame s) a x s
  rw [putBack_eq ((poll_poller a x s).trans hpoller.symm), ← poll_outq a x s, ← poll_pstate a x s] at hback
  exact hback

/-- Settles O24, by what the poll did. -/
theorem pollStopsAtFirstMatchOrBound : Obligations.PollStopsAtFirstMatchOrBound := by
  intro address expected s hu hb
  obtain ⟨k, hrun⟩ := poll_run address expected hb
  dsimp only
  rw [maskAddr_eq]
  refine ⟨_, k, exec_poll_of_ready hu hb, hrun.one_le, hrun.le_bound, hrun.trace, hrun.before, ?_, hrun.pollObs,
    rfl, hrun.pollIter, poll_idle ((quiet_iff s).mp hu).1, fun y => ?_, ?_⟩
  · exact hrun.stopped.imp (fun hmatch => Option.some.inj (hrun.pollObs.symm.trans hmatch)) id
  · exact (congrArg (Device.peek · y) hrun.device).trans (Device.afterRead_iterate_peek k s.device y)
  · exact congrArg (State.setOpResult · s.opResult) (poll_frame_of_quiet address expected hu)

/-! ### The poller's state machine -/

/-- P_CHECK's test: the poll is over (41_poller.md R128). -/
def State.pollOver (expected : Byte) (s : State) : Prop :=
  s.pollObs = expected ∨ s.pollIter = s.cfg.pollBound

section
variable {address : Addr} {expected : Byte} {s : State}

theorem pollTick_idle (h : s.poller = .pIdle) :
    pollTick address expected s = (s.setPollIter 0).setPoller .pRead := by
  simp only [pollTick, h]

theorem pollTick_read (s : State) : pollTick address expected (s.setPoller .pRead) = pollRead address s := rfl

theorem pollTick_check_over (h : s.poller = .pCheck) (hover : s.pollOver expected) :
    pollTick address expected s = s.setPoller .pIdle := by
  simp only [pollTick, h]
  exact if_pos hover

theorem pollTick_check_again (h : s.poller = .pCheck) (hgo : ¬ s.pollOver expected) :
    pollTick address expected s = s.setPoller .pRead := by
  simp only [pollTick, h]
  exact if_neg hgo

/-- `j` reads, none of which ended the poll, take the machine back to P_READ (41_poller.md R128). -/
theorem pollTick_iterate_odd (hs : s.poller = .pIdle) {j : Nat}
    (hgo : ∀ i, 0 < i → i ≤ j → ¬ ((pollRead address)^[i] (s.setPollIter 0)).pollOver expected) :
    (pollTick address expected)^[2 * j + 1] s = ((pollRead address)^[j] (s.setPollIter 0)).setPoller .pRead := by
  induction j with
  | zero => exact pollTick_idle hs
  | succ j ih =>
    have hbefore := ih fun i hi hij => hgo i hi (by omega)
    have hagain := hgo (j + 1) (by omega) le_rfl
    rw [Function.iterate_succ_apply'] at hagain
    rw [show 2 * (j + 1) + 1 = (2 * j + 1) + 1 + 1 by omega, Function.iterate_succ_apply',
      Function.iterate_succ_apply', hbefore, pollTick_read, pollTick_check_again rfl hagain,
      Function.iterate_succ_apply']

/-- The next transition makes one read more and leaves the machine in P_CHECK. -/
theorem pollTick_iterate_even (hs : s.poller = .pIdle) {j : Nat}
    (hgo : ∀ i, 0 < i → i ≤ j → ¬ ((pollRead address)^[i] (s.setPollIter 0)).pollOver expected) :
    (pollTick address expected)^[2 * j + 2] s = (pollRead address)^[j + 1] (s.setPollIter 0) := by
  rw [Function.iterate_succ_apply', pollTick_iterate_odd hs hgo, pollTick_read, Function.iterate_succ_apply']

end

theorem pollRead_iterate_cfg (a : Addr) (k : Nat) (s : State) : ((pollRead a)^[k] s).cfg = s.cfg := by
  induction k generalizing s with
  | zero => rfl
  | succ k ih => rw [Function.iterate_succ_apply, ih, pollRead_cfg]

/-- POLL in terms of its reads: the number of them, and which of them end it (41_poller.md R120). -/
theorem poll_stops (address : Addr) (expected : Byte) {s : State} (hb : 1 ≤ s.cfg.pollBound) :
    ∃ k, (poll address expected s).2 = ((pollRead address)^[k + 1] (s.setPollIter 0)).setPoller .pIdle ∧
      (∀ i, 0 < i → i ≤ k → ¬ ((pollRead address)^[i] (s.setPollIter 0)).pollOver expected) ∧
      ((pollRead address)^[k + 1] (s.setPollIter 0)).pollOver expected := by
  obtain ⟨k, hk, hpos, hloop, hbefore, hend⟩ :=
    pollLoop_reads address expected s.cfg.pollBound (s.setPollIter 0)
  obtain ⟨k, rfl⟩ : ∃ j, k = j + 1 := ⟨k - 1, by have := hpos hb; omega⟩
  have hiter (i : Nat) : ((pollRead address)^[i] (s.setPollIter 0)).pollIter = i :=
    (pollRead_iterate address i (s.setPollIter 0)).2.1.trans (Nat.zero_add i)
  refine ⟨k, by rw [poll, hloop], fun i hi hik hover => ?_, ?_⟩
  · rw [State.pollOver, hiter, pollRead_iterate_cfg, State.setPollIter_cfg] at hover
    rcases hover with hmatch | hbound
    · exact hbefore i hi (by omega) hmatch
    · omega
  · rw [State.pollOver, hiter, pollRead_iterate_cfg, State.setPollIter_cfg]
    exact hend hb

/-- Settles O29: a transition into P_READ, two for each read that does not end the poll, and two for the last. -/
theorem pollerMachineIsPoll : Obligations.PollerMachineIsPoll := by
  intro address expected s hs hb
  obtain ⟨k, hpoll, hgo, hover⟩ := poll_stops address expected hb
  have hiter : (poll address expected s).2.pollIter = k + 1 := by
    rw [hpoll]
    exact (pollRead_iterate address (k + 1) (s.setPollIter 0)).2.1.trans (Nat.zero_add _)
  have hcheck (j : Nat) : ((pollRead address)^[j + 1] (s.setPollIter 0)).poller = .pCheck := by
    rw [Function.iterate_succ_apply']
    rfl
  dsimp only
  rw [hiter]
  refine ⟨?_, rfl, fun n hn hlt => ?_⟩
  · rw [show 2 * (k + 1) + 1 = 2 * k + 2 + 1 by omega, Function.iterate_succ_apply', pollTick_iterate_even hs hgo,
      pollTick_check_over (hcheck k) hover, hpoll]
  · rcases Nat.even_or_odd' n with ⟨j, rfl | rfl⟩
    · obtain ⟨j, rfl⟩ : ∃ i, j = i + 1 := ⟨j - 1, by omega⟩
      rw [show 2 * (j + 1) = 2 * j + 2 by omega, pollTick_iterate_even hs fun i hi hij => hgo i hi (by omega),
        hcheck]
      nofun
    · rw [pollTick_iterate_odd hs fun i hi hij => hgo i hi (by omega)]
      nofun

/-! ### The runner's state machine -/

section
variable {column : List (Addr × Byte)} {last : BitVec 3}

theorem runnerTick_idle {s : State} (h : s.runner = .sIdle) :
    runnerTick column last s = (s.setSeqIdx 0).setRunner .sWrite := by
  simp only [runnerTick, h]

/-- One transition in S_WRITE: the write at `SEQ_IDX`, then the next index, or S_IDLE after `SEQ_LAST`
(42_protection.md R137). -/
theorem runnerTick_write {s : State} {w : Addr × Byte} {rest : List (Addr × Byte)} (h : s.runner = .sWrite)
    (hrest : column.drop s.seqIdx.toNat = w :: rest) :
    runnerTick column last s =
      if s.seqIdx = last then (writeByte w.1 w.2 s).setRunner .sIdle
      else (writeByte w.1 w.2 s).setSeqIdx (s.seqIdx + 1) := by
  have hw : column[s.seqIdx.toNat]? = some w := by rw [← List.head?_drop, hrest, List.head?_cons]
  simp only [runnerTick, h, hw]

/-- From S_WRITE with the writes `w :: rest` still to do, as many transitions do them all and end in S_IDLE. -/
theorem runnerTick_iterate (hlen : last.toNat + 1 = column.length) (w : Addr × Byte) (rest : List (Addr × Byte))
    {s : State} (h : s.runner = .sWrite) (hrest : column.drop s.seqIdx.toNat = w :: rest) :
    (runnerTick column last)^[rest.length + 1] s = (runSequence s.seqIdx (w :: rest) s).setRunner .sIdle ∧
      ∀ n, n ≤ rest.length → ((runnerTick column last)^[n] s).runner = .sWrite := by
  induction rest generalizing s w with
  | nil =>
    have hlast : s.seqIdx = last := by
      have hcount := congrArg List.length hrest
      simp only [List.length_drop, List.length_cons, List.length_nil] at hcount
      exact BitVec.eq_of_toNat_eq (by omega)
    refine ⟨?_, fun n hn => ?_⟩
    · rw [List.length_nil, Nat.zero_add, Function.iterate_one, runnerTick_write h hrest, if_pos hlast]
      rfl
    · rw [Nat.le_zero.mp hn]
      exact h
  | cons w' rest ih =>
    have hlt : s.seqIdx.toNat < last.toNat := by
      have hcount := congrArg List.length hrest
      simp only [List.length_drop, List.length_cons] at hcount
      omega
    have hnext : (s.seqIdx + 1).toNat = s.seqIdx.toNat + 1 := by
      have := last.isLt
      exact BitVec.toNat_add_of_lt (by simp; omega)
    have hgo : s.seqIdx ≠ last := fun heq => by simp [heq] at hlt
    have htick := runnerTick_write (last := last) h hrest
    rw [if_neg hgo] at htick
    obtain ⟨hdone, hbusy⟩ := ih w' (s := (writeByte w.1 w.2 s).setSeqIdx (s.seqIdx + 1)) (by simpa using h)
      (by rw [State.setSeqIdx_seqIdx, hnext, ← List.tail_drop, hrest, List.tail_cons])
    refine ⟨?_, fun n hn => ?_⟩
    · rw [List.length_cons, Function.iterate_succ_apply, htick, hdone]
      rfl
    · cases n with
      | zero => exact h
      | succ n =>
        rw [Function.iterate_succ_apply, htick]
        exact hbusy n (Nat.le_of_succ_le_succ hn)

/-- The runner started on a column runs it whole: one transition into S_WRITE, and one for each write. -/
theorem runner_runs_column {w : Addr × Byte} {rest : List (Addr × Byte)} (hcol : column = w :: rest)
    (hlast : last.toNat = rest.length) {s : State} (h : s.runner = .sIdle) :
    (runnerTick column last)^[rest.length + 2] s = s.runColumn column ∧
      ∀ n, 0 < n → n < rest.length + 2 → ((runnerTick column last)^[n] s).runner = .sWrite := by
  obtain ⟨hdone, hbusy⟩ := runnerTick_iterate (last := last) (by rw [hlast, hcol, List.length_cons]) w rest
    (s := (s.setSeqIdx 0).setRunner .sWrite) rfl hcol
  refine ⟨?_, fun n hn hlt => ?_⟩
  · rw [Function.iterate_succ_apply, runnerTick_idle h, hdone, hcol]
    rfl
  · obtain ⟨m, rfl⟩ : ∃ m, n = m + 1 := ⟨n - 1, by omega⟩
    rw [Function.iterate_succ_apply, runnerTick_idle h]
    exact hbusy m (by omega)

end

/-- Settles O30: the runner on either column. -/
theorem runnerMachineIsTheSequence : Obligations.RunnerMachineIsTheSequence := by
  intro s hs
  obtain ⟨henable, hbusy₁⟩ := runner_runs_column (column := enableSequence) (last := 2) rfl rfl hs
  obtain ⟨hdisable, hbusy₂⟩ := runner_runs_column (column := disableSequence) (last := 5) rfl rfl hs
  exact ⟨henable, hdisable, hbusy₁, hbusy₂⟩

end Sys2Proof.Machine
end
